-- ==== Sys2Proof/Word.lean ====
section
/-! DEFINITION. The word types of the core (spec/00_scope.md rule R4, section 5.1): every value is an unsigned bit vector. -/

namespace Sys2Proof

/-- A byte of memory, and the contents of a general register or timer (`REG_BITS` = `TIMER_BITS` = 8, R4). -/
abbrev Byte := BitVec 8

/-- An instruction word, and the contents of `pc`, `sp` and `I` (`PC_BITS` = `SP_BITS` = `I_BITS` = 16, R4). -/
abbrev Word := BitVec 16

/-- A general register's index: a 4-bit field, so never out of range (R12, R54). -/
abbrev Reg := BitVec 4

/-- An address operand (`ADDR_BITS` = 12, R4): it always names an existing byte (R40). -/
abbrev Addr := BitVec 12

end Sys2Proof
end

