-- ==== Sys2Proof/Machine/Bits.lean ====
section
/-! DEFINITION. The fields of an instruction word (spec/30_encoding.md rule R61) and the byte order of the two multi-byte
quantities of memory (spec/20_memory.md rules R43 and R44: big-endian, high byte at the lower address). -/

namespace Sys2Proof.Machine

/-- `fam = w[15:12]`, the primary opcode family selector (R61). -/
def fieldFam (w : Word) : BitVec 4 := w.extractLsb' 12 4

/-- `x = w[11:8]`, the first operand register (R61). -/
def fieldX (w : Word) : Reg := w.extractLsb' 8 4

/-- `y = w[7:4]`, the second operand register (R61). -/
def fieldY (w : Word) : Reg := w.extractLsb' 4 4

/-- `n = w[3:0]`, the sub-operation selector of family 8 (R61). -/
def fieldN (w : Word) : BitVec 4 := w.extractLsb' 0 4

/-- `kk = w[7:0]`, the 8-bit immediate, and the sub-operation selector of family 0 (R61). -/
def fieldKk (w : Word) : Byte := w.extractLsb' 0 8

/-- `nnn = w[11:0]`, the 12-bit address operand (R61). -/
def fieldNnn (w : Word) : Addr := w.extractLsb' 0 12

/-- The more significant byte of a word, the one stored at the lower address (R43, R44). -/
def hiByte (w : Word) : Byte := w.extractLsb' 8 8

/-- The less significant byte of a word, the one stored at the higher address (R43, R44). -/
def loByte (w : Word) : Byte := w.extractLsb' 0 8

/-- `hi ++ lo`: the word whose byte at the lower address is `hi` (R43, R44). -/
def joinBytes (hi lo : Byte) : Word := hi ++ lo

end Sys2Proof.Machine
end

