-- ==== Sys2Proof/Config.lean ====
section
/-! DEFINITION. What an implementation of the core fixes, and the values the spec leaves free.

The two parameters of spec/00_scope.md rule R4 that have a default are fields of `Config`, and a value of `Config`
stands in `State` (log entries 2 and 3), so that a statement about every state is a statement about every admissible
parameter value. The parameter with no default and the random input are constants without a body: nothing can be
proved of their values. -/

namespace Sys2Proof

/-- The parameters of rule R4 that have a default (92_eei_decisions.md D1 and D10).

`topFrame` codes `STACK_TOP`: it is the index of the highest frame of the stack region, so that
`STACK_TOP = STACK_BOTTOM + 2 * (topFrame + 1)`. Its 128 values are exactly the admissible ones of R4 (`STACK_TOP` even,
`STACK_BOTTOM < STACK_TOP <= STACK_BOTTOM + STACK_BYTES`); no other can be written.

`unimplAdvancesPc` is `UNIMPL_ADVANCES_PC`: whether a placeholder handler advances `pc` by 2. -/
structure Config where
  topFrame         : Fin 128
  unimplAdvancesPc : Bool
  deriving DecidableEq, Repr

/-- FREE VALUE (log entry 4). The byte the random source delivers to the n-th executed RND: `rnd_in` of rule R26,
"a free 8-bit draw per executed RND, under no law" (D24). -/
opaque Config.rndIn : Nat → Byte

/-- FREE VALUE (log entry 20). `PIXEL_MSB_LEFT` of rule R4: whether bit 7 of a display byte is its leftmost pixel.
The spec gives it no default (D21), and no instruction depends on it. -/
opaque Config.pixelMsbLeft : Bool

end Sys2Proof
end

