-- ==== Sys2Proof/Machine/Params.lean ====
section
/-! DEFINITION. The constants of the core (spec/00_scope.md rule R4) and the numbers derived from its parameters. -/

namespace Sys2Proof.Machine

/-- `MEM_SIZE`: bytes of memory, addresses 0..4095 (R4, R40). -/
def memSize : Nat := 4096

/-- `PC_RESET` (R4). -/
def pcReset : Word := 0x0200

/-- `STACK_BOTTOM`: the lowest stack byte address, and `sp` when the stack is empty (R4). -/
def stackBottom : Word := 0x0EA0

/-- `SP_RESET` = `STACK_BOTTOM` (R4, D2). -/
def spReset : Word := stackBottom

/-- `STACK_TOP`: the value of `sp` when the stack is full (R4, R18). -/
def stackTop (c : Config) : Word := stackBottom + BitVec.ofNat 16 (2 * (c.topFrame.val + 1))

/-- `DISPLAY_START` (R4). -/
def displayStart : Nat := 0x0F00

/-- `DISPLAY_BYTES` (R4). -/
def displayBytes : Nat := 256

/-- `FLAG_REG`: the index of the flag register `VF` (R4, R13). -/
def flagReg : Reg := 0xF#4

/-- The defaults of R4: `STACK_TOP` = 0x0FA0 (128 frames) and `UNIMPL_ADVANCES_PC` = true. DESIGN CHOICE to hold them
at reset (log entries 2 and 3). -/
def defaultConfig : Config := ⟨127, true⟩

end Sys2Proof.Machine
end

