-- ==== Sys2Proof/Machine/State.lean ====
section
/-! DEFINITION. The Machine State (spec/10_state.md rule R10), what a step can end in, and the state after reset. -/

namespace Sys2Proof.Machine

/-- Memory as a list of (address, byte) cells in one canonical form (`Memory.wf`). -/
abbrev Memory := List Host.Cell

/-- What an address that is not listed reads as: memory is zero after reset (R22, R160). -/
def Memory.unlisted : Byte := 0x00

/-- The canonical form: addresses strictly rising and inside the address space (R40), and no entry equal to what an
unlisted address reads as. -/
abbrev Memory.wf (m : Memory) : Prop :=
  m.Pairwise (fun p q => p.1 < q.1) ∧ ∀ c ∈ m, c.1 < memSize ∧ c.2 ≠ Memory.unlisted

/-- The `status` output of a step (R25). -/
inductive Status where
  | executed
  | unimplemented
  deriving DecidableEq, Repr

/-- The Machine State: the seven fields of rule R10, then five fields of the model's own (log entries 2 to 5 and
33). -/
structure State where
  /-- `memory`: 4096 bytes, the stack region and the display region among them (R11). -/
  mem        : Memory
  /-- `registers`: `V[0]` to `V[15]`, `V[15]` being the flag register (R12, R13). -/
  regs       : Vector Byte 16
  /-- `address_register`, written `I` (R14). -/
  ireg       : Word
  /-- `delay_timer`, written `DT` (R15). -/
  dt         : Byte
  /-- `sound_timer`, written `ST` (R15). -/
  st         : Byte
  /-- `program_counter` (R16). -/
  pc         : Word
  /-- `stack_pointer`: the address of the next free frame (R18). -/
  sp         : Word
  /-- The model's own: the parameters of R4 that have a default. Nothing writes it (log entries 2 and 3). -/
  cfg        : Config
  /-- The model's own: the `status` output of the last step that ended OK (R25, log entry 5). -/
  status     : Status
  /-- The model's own: some step of this session reported UNIMPLEMENTED; "keep that mark for the rest of the run"
  (R125, log entry 5). -/
  unimplSeen : Bool
  /-- The model's own: how many RND have been executed, the index of the next free `Config.rndIn` (R26, log entry 4). -/
  draws      : Nat
  /-- The model's own: some step event ended in an error. "The core keeps no fault bit (decision D13), so the model keeps its
  own and never clears it" (U7 of spec/93_implementation_defined.md, R136, log entry 33). -/
  failed     : Bool
  deriving DecidableEq, Repr

/-- The four fatal errors (spec/60_exceptions.md rule R130), each with the `info` it records. The Machine State is exactly as
before the step that raised one (R135); the step event marks the run as failed (`State.stepEvent`, log entry 33). Addresses are plain integers, not reduced modulo anything (R130). -/
inductive Fault where
  /-- `DecodeError`: raised by `step` when the fetched word's key has no handler (R131). Safe: the spec names it, and for
  `8xyE` it stops where another reading would go on (D5). -/
  | decodeError (pc w key : Word)
  /-- `StackOverflow`: raised by CALL when `sp == STACK_TOP` (R132). Safe: the spec names it. -/
  | stackOverflow (pc sp : Word)
  /-- `StackUnderflow`: raised by RET when `sp == STACK_BOTTOM` (R133). Safe: the spec names it. -/
  | stackUnderflow (pc sp : Word)
  /-- `AccessViolation`: raised by the fetch, and by CALL and RET on a corrupted `sp` (R134). Safe: the spec names it. -/
  | accessViolation (addr : Int)
  deriving DecidableEq, Repr

/-- Why the model gives a step no meaning. No step of this model is refused. -/
inductive Refusal where
  /-- For an arm of `exec` without a meaning: raised by none, since all 24 handlers have theirs. Safe: it would stop. -/
  | notModelled (mnemonic : String)
  deriving DecidableEq, Repr

/-- What a meaning answers. -/
abbrev Out := Host.Outcome State Fault Refusal

/-- The state after reset (R22, R160): "all fields zeroed except pc/sp at their initial constants". The five last fields
are the model's own: the default parameters, and DESIGN CHOICE values (log entries 2 to 5 and 33). -/
def State.reset : State where
  mem        := []
  regs       := Vector.replicate 16 0x00
  ireg       := 0x0000
  dt         := 0x00
  st         := 0x00
  pc         := pcReset
  sp         := spReset
  cfg        := defaultConfig
  status     := .executed
  unimplSeen := false
  draws      := 0
  failed     := false

end Sys2Proof.Machine
end

