-- ==== Sys2Proof/Machine/Ops.lean ====
section
/-! DEFINITION. The named operations over memory and registers (spec/20_memory.md, spec/10_state.md section 5.2 of
spec/00_scope.md): raw bytes, the bounds-checked primitives, the stack region, frames, registers and `pc`. -/

namespace Sys2Proof.Machine

/-! Raw bytes: `mem[a]` and `mem[a] <- b` of spec/00_scope.md section 5.2, no check. -/

/-- `mem[a]`. -/
def Memory.read : Memory → Nat → Byte
  | [], _ => Memory.unlisted
  | (k, v) :: rest, a => if k = a then v else Memory.read rest a

/-- Puts a cell before the first one with a higher address. -/
def Memory.insert (a : Nat) (b : Byte) : Memory → Memory
  | [] => [(a, b)]
  | (k, v) :: rest => if a < k then (a, b) :: (k, v) :: rest else (k, v) :: Memory.insert a b rest

/-- `mem[a] <- b`, in the canonical form: writing what an unlisted address reads as removes the entry. -/
def Memory.write (m : Memory) (a : Nat) (b : Byte) : Memory :=
  let others := m.filter (fun c => c.1 != a)
  if b = Memory.unlisted then others else Memory.insert a b others

/-- Every byte of `[lo, lo + n)` becomes what an unlisted address reads as: 0x00. -/
def Memory.zeroRange (m : Memory) (lo n : Nat) : Memory :=
  m.filter (fun c => !(decide (lo ≤ c.1) && decide (c.1 < lo + n)))

/-! The checked primitives of rule R42. All checks of an access come before any byte of it moves. -/

/-- `MemRead(addr, 1)` (R42). -/
def memReadByte (m : Memory) (addr : Nat) : Except Fault Byte :=
  if memSize ≤ addr then .error (.accessViolation addr) else .ok (m.read addr)

/-- `MemRead(addr, 2)`, big-endian (R42, R43). -/
def memReadWord (m : Memory) (addr : Nat) : Except Fault Word :=
  if memSize ≤ addr then .error (.accessViolation addr)
  else if memSize ≤ addr + 1 then .error (.accessViolation (addr + 1 : Nat))
  else .ok (joinBytes (m.read addr) (m.read (addr + 1)))

/-- `MemWrite(addr, 1, v)` (R42). -/
def memWriteByte (m : Memory) (addr : Nat) (v : Byte) : Except Fault Memory :=
  if memSize ≤ addr then .error (.accessViolation addr) else .ok (m.write addr v)

/-- `MemWrite(addr, 2, v)`, big-endian (R42, R44). -/
def memWriteWord (m : Memory) (addr : Nat) (v : Word) : Except Fault Memory :=
  if memSize ≤ addr then .error (.accessViolation addr)
  else if memSize ≤ addr + 1 then .error (.accessViolation (addr + 1 : Nat))
  else .ok ((m.write addr (hiByte v)).write (addr + 1) (loByte v))

/-! One setter per field that anything writes. -/

def State.setMem (s : State) (m : Memory) : State := { s with mem := m }
def State.setRegs (s : State) (r : Vector Byte 16) : State := { s with regs := r }
def State.setI (s : State) (v : Word) : State := { s with ireg := v }
def State.setTimers (s : State) (d t : Byte) : State := { s with dt := d, st := t }
def State.setPc (s : State) (v : Word) : State := { s with pc := v }
def State.setSp (s : State) (v : Word) : State := { s with sp := v }
def State.setStatus (s : State) (v : Status) : State := { s with status := v }
def State.setUnimplSeen (s : State) (v : Bool) : State := { s with unimplSeen := v }
def State.setDraws (s : State) (n : Nat) : State := { s with draws := n }
def State.setFailed (s : State) (v : Bool) : State := { s with failed := v }

/-! General registers: no register is hardwired (R12). -/

/-- `V[r]`. -/
def State.getV (s : State) (r : Reg) : Byte := s.regs[r.toNat]

/-- `V[r] <- v`. -/
def State.setV (s : State) (r : Reg) (v : Byte) : State := s.setRegs (s.regs.set r.toNat v)

/-! `pc` (R16, R17): 16-bit arithmetic, never reduced modulo 4096. -/

/-- `pc <- pc + 2`, the end of every handler that does not say otherwise (R17). -/
def State.advance (s : State) : State := s.setPc (s.pc + 2)

/-- A skip: `pc + 4` if the condition holds, else `pc + 2` (R17, R88). -/
def State.skipIf (s : State) (cond : Bool) : State := s.setPc (if cond then s.pc + 4 else s.pc + 2)

/-! Writing results. -/

/-- `V[x] <- v`, then `pc <- pc + 2`. -/
def State.writeResult (s : State) (x : Reg) (v : Byte) : State := (s.setV x v).advance

/-- `VF <- flag`, then `V[x] <- v`, then `pc <- pc + 2`: the write order of rule R100, so that with `x = 0xF` the result
stands and the flag is lost. -/
def State.writeFlagged (s : State) (x : Reg) (flag v : Byte) : State := ((s.setV flagReg flag).setV x v).advance

/-! The stack region (R47) and its frames (R18, R19). Frame addresses are integers, not reduced (R80). -/

/-- `StackCheck(addr)`: inside `[STACK_BOTTOM, STACK_TOP - 1]` (R47). -/
def stackCheck (c : Config) (addr : Int) : Except Fault Unit :=
  if addr < (stackBottom.toNat : Int) ∨ (stackTop c).toNat - 1 < addr then .error (.accessViolation addr) else .ok ()

/-- The region check of both bytes of the frame at `addr`, the lower first (R47, R137). -/
def frameCheck (c : Config) (addr : Int) : Except Fault Unit :=
  match stackCheck c addr with
  | .error f => .error f
  | .ok _ => stackCheck c (addr + 1)

/-- What a frame stores for a return address: bits 15:12 are discarded (R19). -/
def frameWord (r : Word) : Word := r &&& 0x0FFF

/-- Pushes the frame of return address `r`: both bytes checked, then written at `sp` and `sp + 1`, then `sp <- sp + 2`
(R82). -/
def pushFrame (s : State) (r : Word) : Except Fault State :=
  match frameCheck s.cfg s.sp.toNat with
  | .error f => .error f
  | .ok _ =>
    match memWriteWord s.mem s.sp.toNat (frameWord r) with
    | .error f => .error f
    | .ok m => .ok ((s.setMem m).setSp (s.sp + 2))

/-- Pops a frame: both bytes at `sp - 2` and `sp - 1` checked, then read in full, 16 bits with no masking, and
`sp <- sp - 2`; the frame is not erased (R80, R19). -/
def popFrame (s : State) : Except Fault (Word × State) :=
  match frameCheck s.cfg ((s.sp.toNat : Int) - 2) with
  | .error f => .error f
  | .ok _ =>
    match memReadWord s.mem (s.sp.toNat - 2) with
    | .error f => .error f
    | .ok w => .ok (w, s.setSp (s.sp - 2))

/-! The two ends of a step. -/

/-- The fetch: `MemRead(pc, 2)` at any parity; `pc` does not change (R60, R68, R45). -/
def State.fetch (s : State) : Except Fault Word := memReadWord s.mem s.pc.toNat

/-- `status <- EXECUTED`, which the step does before the handler runs (R68). -/
def State.beginStep (s : State) : State := s.setStatus .executed

/-- A placeholder's whole effect (R125): `status <- UNIMPLEMENTED`, the mark kept for the rest of the run, and the `pc`
advance if `UNIMPL_ADVANCES_PC`. -/
def State.placeholder (s : State) : State :=
  let t := (s.setStatus .unimplemented).setUnimplSeen true
  if s.cfg.unimplAdvancesPc then t.advance else t

end Sys2Proof.Machine
end

