-- ==== Sys2Proof/Machine/Flags.lean ====
section
/-! DEFINITION. The flag computations of spec/10_state.md rule R13: the only flag is `VF`, and the value written is always
exactly 0x00 or 0x01. -/

namespace Sys2Proof.Machine

/-- 0x01 or 0x00. -/
def flagByte (b : Bool) : Byte := if b then 0x01 else 0x00

/-- The sum "as 16-bit intermediate" (R107). -/
def wideSum (a b : Byte) : Word := a.setWidth 16 + b.setWidth 16

/-- ADD's flag, the carry out: 1 if the sum exceeds 8 bits (R107). -/
def carryFlag (a b : Byte) : Byte := flagByte (decide (0x00FF < wideSum a b))

/-- The flag of SUB (`a > b`) and, with its operands exchanged, of SUBN: a strict unsigned comparison (R108, R110, C7). -/
def greaterFlag (a b : Byte) : Byte := flagByte (decide (b < a))

/-- SHR's flag: the low bit before the shift (R109). -/
def lowBitFlag (a : Byte) : Byte := flagByte (a.getLsbD 0)

end Sys2Proof.Machine
end

