-- ==== Sys2Proof/Machine/Operands.lean ====
section
/-! DEFINITION. The operand forms of spec/30_encoding.md rule R62. A register operand is `State.getV`, "read as 8-bit
unsigned values"; an immediate `kk` is "used as an 8-bit value", itself; the two address forms stand here. -/

namespace Sys2Proof.Machine

/-- The address operand: `zext_16(nnn)`, in 0x0000..0x0FFF (R62). -/
def addrOperand (nnn : Addr) : Word := nnn.setWidth 16

/-- The target of `JP V0, nnn`: `zext_16(nnn) + zext_16(V[0])`, a 16-bit sum that is not reduced to 12 bits (R87). -/
def offsetOperand (s : State) (nnn : Addr) : Word := addrOperand nnn + (s.getV 0x0#4).setWidth 16

end Sys2Proof.Machine
end

