-- ==== Sys2Proof/Machine/Arith.lean ====
section
/-! DEFINITION. The load, arithmetic and logic group (spec/41_arith_logic.md). Every instruction of it reads its sources,
computes, writes in the order of its rule and advances `pc` by 2 (R100); none raises an error. -/

namespace Sys2Proof.Machine

/-- `LD Vx, kk` (R101). -/
def execLdImm (x : Reg) (kk : Byte) (s : State) : Out := .next (s.writeResult x kk)

/-- `ADD Vx, kk` (R102): modulo 256, no flag. -/
def execAddImm (x : Reg) (kk : Byte) (s : State) : Out := .next (s.writeResult x (s.getV x + kk))

/-- `LD Vx, Vy` (R103). -/
def execLdReg (x y : Reg) (s : State) : Out := .next (s.writeResult x (s.getV y))

/-- `OR Vx, Vy` (R104): no flag. -/
def execOrReg (x y : Reg) (s : State) : Out := .next (s.writeResult x (s.getV x ||| s.getV y))

/-- `AND Vx, Vy` (R105): no flag. -/
def execAndReg (x y : Reg) (s : State) : Out := .next (s.writeResult x (s.getV x &&& s.getV y))

/-- `XOR Vx, Vy` (R106): no flag. -/
def execXorReg (x y : Reg) (s : State) : Out := .next (s.writeResult x (s.getV x ^^^ s.getV y))

/-- `ADD Vx, Vy` (R107): the carry of the 16-bit sum, then its low 8 bits. -/
def execAddReg (x y : Reg) (s : State) : Out :=
  .next (s.writeFlagged x (carryFlag (s.getV x) (s.getV y)) ((wideSum (s.getV x) (s.getV y)).setWidth 8))

/-- `SUB Vx, Vy` (R108): both sources read first (R100, D7), the difference modulo 256 in every case (C5, D8). -/
def execSubReg (x y : Reg) (s : State) : Out :=
  .next (s.writeFlagged x (greaterFlag (s.getV x) (s.getV y)) (s.getV x - s.getV y))

/-- `SHR Vx` (R109): logical, by one place, of `V[x]`; `V[y]` is neither read nor written (D9). -/
def execShr (x : Reg) (s : State) : Out :=
  .next (s.writeFlagged x (lowBitFlag (s.getV x)) (s.getV x >>> 1))

/-- `SUBN Vx, Vy` (R110): as SUB with the operands exchanged; the destination is still `V[x]`. -/
def execSubnReg (x y : Reg) (s : State) : Out :=
  .next (s.writeFlagged x (greaterFlag (s.getV y) (s.getV x)) (s.getV y - s.getV x))

/-- `LD I, nnn` (R111). -/
def execLdI (nnn : Addr) (s : State) : Out := .next ((s.setI (addrOperand nnn)).advance)

end Sys2Proof.Machine
end

