-- ==== Sys2Proof/Machine/Control.lean ====
section
/-! DEFINITION. The control-flow group (spec/40_control_flow.md): return, jump, call, the four skips, jump with offset. -/

namespace Sys2Proof.Machine

/-- `RET` (R80): the empty test, then the pop; the popped value is the next `pc`. -/
def execRet (s : State) : Out :=
  if s.sp = stackBottom then .fault (.stackUnderflow s.pc s.sp)
  else match popFrame s with
    | .error f => .fault f
    | .ok (target, t) => .next (t.setPc target)

/-- `JP nnn` (R81). -/
def execJp (nnn : Addr) (s : State) : Out := .next (s.setPc (addrOperand nnn))

/-- `CALL nnn` (R82): the full test, then the push of the return address `pc + 2` (C2, D3), then the jump. -/
def execCall (nnn : Addr) (s : State) : Out :=
  if s.sp = stackTop s.cfg then .fault (.stackOverflow s.pc s.sp)
  else match pushFrame s (s.pc + 2) with
    | .error f => .fault f
    | .ok t => .next (t.setPc (addrOperand nnn))

/-- `SE Vx, kk` (R83). -/
def execSeImm (x : Reg) (kk : Byte) (s : State) : Out := .next (s.skipIf (s.getV x == kk))

/-- `SNE Vx, kk` (R84). -/
def execSneImm (x : Reg) (kk : Byte) (s : State) : Out := .next (s.skipIf (s.getV x != kk))

/-- `SE Vx, Vy` (R85). -/
def execSeReg (x y : Reg) (s : State) : Out := .next (s.skipIf (s.getV x == s.getV y))

/-- `SNE Vx, Vy` (R86). -/
def execSneReg (x y : Reg) (s : State) : Out := .next (s.skipIf (s.getV x != s.getV y))

/-- `JP V0, nnn` (R87). -/
def execJpV0 (nnn : Addr) (s : State) : Out := .next (s.setPc (offsetOperand s nnn))

end Sys2Proof.Machine
end

