-- ==== Sys2Proof/Machine/Display.lean ====
section
/-! DEFINITION. Display clear, random, and the three placeholder families (spec/42_display_random_placeholders.md), and
the renderer's view of the display (spec/60_exceptions.md rules R143 and R144). -/

namespace Sys2Proof.Machine

/-- `CLS` (R120): every byte of `0x0F00..0x0FFF` becomes 0x00, as one effect. -/
def execCls (s : State) : Out := .next ((s.setMem (s.mem.zeroRange displayStart displayBytes)).advance)

/-- RND with the byte the random source delivers as an argument: `V[x] <- rnd_in & kk` (R121), and the next RND draws
afresh (R26). -/
def rndWith (rndIn : Byte) (x : Reg) (kk : Byte) (s : State) : State :=
  (s.setDraws (s.draws + 1)).writeResult x (rndIn &&& kk)

/-- `RND Vx, kk` (R121): `rnd_in` is a free value, a new one at each executed RND (log entry 4). -/
def execRnd (x : Reg) (kk : Byte) (s : State) : Out := .next (rndWith (Config.rndIn s.draws) x kk s)

/-- `DRW` (R122): the placeholder effect of R125. -/
def execDrw (s : State) : Out := .next s.placeholder

/-- `KEYOP` (R123): the placeholder effect of R125; it never skips. -/
def execKeyop (s : State) : Out := .next s.placeholder

/-- `MISC` (R124): the placeholder effect of R125; it does not wait. -/
def execMisc (s : State) : Out := .next s.placeholder

/-! The display as a view over memory (R20). -/

/-- Byte `k` of the display, `k` in 0..255 (R20). -/
def State.displayByte (s : State) (k : Fin 256) : Byte := s.mem.read (displayStart + k.val)

/-- The index in the display of the byte that holds the pixel at column `c`, row `r`: `8*r + floor(c / 8)` (R144). -/
def pixelByte (c : Fin 64) (r : Fin 32) : Fin 256 := ⟨8 * r.val + c.val / 8, by omega⟩

/-- The bit of that byte which is the pixel: which end is leftmost is `PIXEL_MSB_LEFT`, a free value (R144, D21). -/
def pixelBit (c : Fin 64) : Nat := if Config.pixelMsbLeft then 7 - c.val % 8 else c.val % 8

/-- Whether the pixel is lit: a bit value 1 is a lit pixel (R144; PRESUMED by the spec itself, G6, log entry 20). -/
def State.pixelLit (s : State) (c : Fin 64) (r : Fin 32) : Bool := (s.displayByte (pixelByte c r)).getLsbD (pixelBit c)

end Sys2Proof.Machine
end

