-- ==== Sys2Proof/Syntax.lean ====
section
/-! DEFINITION. The instruction set: one constructor per row of spec/opcode_table.json (rule R64's 24 handlers).

A constructor carries every bit of the word that is not in its row's mask, under the field names of rule R61. Bits that
decode and execute ignore (rule R66) are carried under the name `ign`, so that an instruction and its word determine
each other; no meaning reads them (log entry 17). -/

namespace Sys2Proof

inductive Instr where
  /-- `CLS`, word `0-E0` (R120); `w[11:8]` is ignored. -/
  | cls (ign : BitVec 4)
  /-- `RET`, word `0-EE` (R80); `w[11:8]` is ignored. -/
  | ret (ign : BitVec 4)
  /-- `JP nnn`, word `1nnn` (R81). -/
  | jp (nnn : Addr)
  /-- `CALL nnn`, word `2nnn` (R82). -/
  | call (nnn : Addr)
  /-- `SE Vx, kk`, word `3xkk` (R83). -/
  | seImm (x : Reg) (kk : Byte)
  /-- `SNE Vx, kk`, word `4xkk` (R84). -/
  | sneImm (x : Reg) (kk : Byte)
  /-- `SE Vx, Vy`, word `5xy-` (R85); `w[3:0]` is ignored. -/
  | seReg (x y : Reg) (ign : BitVec 4)
  /-- `LD Vx, kk`, word `6xkk` (R101). -/
  | ldImm (x : Reg) (kk : Byte)
  /-- `ADD Vx, kk`, word `7xkk` (R102). -/
  | addImm (x : Reg) (kk : Byte)
  /-- `LD Vx, Vy`, word `8xy0` (R103). -/
  | ldReg (x y : Reg)
  /-- `OR Vx, Vy`, word `8xy1` (R104). -/
  | orReg (x y : Reg)
  /-- `AND Vx, Vy`, word `8xy2` (R105). -/
  | andReg (x y : Reg)
  /-- `XOR Vx, Vy`, word `8xy3` (R106). -/
  | xorReg (x y : Reg)
  /-- `ADD Vx, Vy`, word `8xy4` (R107). -/
  | addReg (x y : Reg)
  /-- `SUB Vx, Vy`, word `8xy5` (R108). -/
  | subReg (x y : Reg)
  /-- `SHR Vx`, word `8xy6` (R109); `y` is encoded but ignored. -/
  | shr (x : Reg) (ign : BitVec 4)
  /-- `SUBN Vx, Vy`, word `8xy7` (R110). -/
  | subnReg (x y : Reg)
  /-- `SNE Vx, Vy`, word `9xy-` (R86); `w[3:0]` is ignored. -/
  | sneReg (x y : Reg) (ign : BitVec 4)
  /-- `LD I, nnn`, word `Annn` (R111). -/
  | ldI (nnn : Addr)
  /-- `JP V0, nnn`, word `Bnnn` (R87). -/
  | jpV0 (nnn : Addr)
  /-- `RND Vx, kk`, word `Cxkk` (R121). -/
  | rnd (x : Reg) (kk : Byte)
  /-- `DRW`, word `D---` (R122), a placeholder; `w[11:0]` is ignored. -/
  | drw (ign : BitVec 12)
  /-- `KEYOP`, word `E---` (R123), a placeholder; `w[11:0]` is ignored. -/
  | keyop (ign : BitVec 12)
  /-- `MISC`, word `F---` (R124), a placeholder; `w[11:0]` is ignored. -/
  | misc (ign : BitVec 12)
  deriving DecidableEq, Repr

end Sys2Proof
end

