-- ==== Sys2Proof/WellFormed.lean ====
section
/-! DEFINITION. Which instructions an assembler writes (spec/30_encoding.md rules R66 and R70). -/

namespace Sys2Proof

/-- The instruction is in the form an assembler emits: "An assembler emits 0 in ignored bits (rule R70); a decoder
accepts any value" (R66). The widths of the operands are in their types, so nothing else can be ill-formed.

A placeholder's twelve low bits may have any value: R70 gives the three of them operands (`DRW Vx, Vy, n` is `Dxyn`),
which the core then ignores (log entry 17). The check has five constructors that can fail it. Decoding, encoding and
executing are defined for every instruction, well-formed or not. -/
def Instr.wellFormed : Instr → Bool
  | .cls ign => ign == 0
  | .ret ign => ign == 0
  | .jp _ => true
  | .call _ => true
  | .seImm _ _ => true
  | .sneImm _ _ => true
  | .seReg _ _ ign => ign == 0
  | .ldImm _ _ => true
  | .addImm _ _ => true
  | .ldReg _ _ => true
  | .orReg _ _ => true
  | .andReg _ _ => true
  | .xorReg _ _ => true
  | .addReg _ _ => true
  | .subReg _ _ => true
  | .shr _ ign => ign == 0
  | .subnReg _ _ => true
  | .sneReg _ _ ign => ign == 0
  | .ldI _ => true
  | .jpV0 _ => true
  | .rnd _ _ => true
  | .drw _ => true
  | .keyop _ => true
  | .misc _ => true

end Sys2Proof
end

