-- ==== Sys2Proof/Decode.lean ====
section
/-! DEFINITION. Decoding (spec/30_encoding.md rules R60 to R71): the dispatch key, the handler table, the decoder over
words and over bytes, and the encoder. -/

namespace Sys2Proof

open Sys2Proof.Machine

/-- `Key(w)` of rule R63: the leading nibble, with the whole low byte folded in for family 0 and the low nibble for
family 8. -/
def dispatchKey (w : Word) : Word :=
  let base : Word := (fieldFam w).setWidth 16 <<< 12
  if fieldFam w = 0x0#4 then base ||| (fieldKk w).setWidth 16
  else if fieldFam w = 0x8#4 then base ||| (fieldN w).setWidth 16
  else base

/-- One row of the handler table of rule R64: the table's mnemonic, the registered key, the mask and match of its words,
and the instruction its operand fields make. -/
structure Row where
  mnemonic : String
  key      : Word
  mask     : Word
  pattern  : Word
  build    : Word → Instr

/-- The handler table of rule R64, rows 1 to 9. -/
def handlersLow : List Row :=
  [ ⟨"CLS", 0x00E0, 0xF0FF, 0x00E0, fun w => .cls (fieldX w)⟩,
    ⟨"RET", 0x00EE, 0xF0FF, 0x00EE, fun w => .ret (fieldX w)⟩,
    ⟨"JP_nnn", 0x1000, 0xF000, 0x1000, fun w => .jp (fieldNnn w)⟩,
    ⟨"CALL_nnn", 0x2000, 0xF000, 0x2000, fun w => .call (fieldNnn w)⟩,
    ⟨"SE_Vx__kk", 0x3000, 0xF000, 0x3000, fun w => .seImm (fieldX w) (fieldKk w)⟩,
    ⟨"SNE_Vx__kk", 0x4000, 0xF000, 0x4000, fun w => .sneImm (fieldX w) (fieldKk w)⟩,
    ⟨"SE_Vx__Vy", 0x5000, 0xF000, 0x5000, fun w => .seReg (fieldX w) (fieldY w) (fieldN w)⟩,
    ⟨"LD_Vx__kk", 0x6000, 0xF000, 0x6000, fun w => .ldImm (fieldX w) (fieldKk w)⟩,
    ⟨"ADD_Vx__kk", 0x7000, 0xF000, 0x7000, fun w => .addImm (fieldX w) (fieldKk w)⟩ ]

/-- The handler table of rule R64, rows 10 to 17: family 8. -/
def handlersAlu : List Row :=
  [ ⟨"LD_Vx__Vy", 0x8000, 0xF00F, 0x8000, fun w => .ldReg (fieldX w) (fieldY w)⟩,
    ⟨"OR_Vx__Vy", 0x8001, 0xF00F, 0x8001, fun w => .orReg (fieldX w) (fieldY w)⟩,
    ⟨"AND_Vx__Vy", 0x8002, 0xF00F, 0x8002, fun w => .andReg (fieldX w) (fieldY w)⟩,
    ⟨"XOR_Vx__Vy", 0x8003, 0xF00F, 0x8003, fun w => .xorReg (fieldX w) (fieldY w)⟩,
    ⟨"ADD_Vx__Vy", 0x8004, 0xF00F, 0x8004, fun w => .addReg (fieldX w) (fieldY w)⟩,
    ⟨"SUB_Vx__Vy", 0x8005, 0xF00F, 0x8005, fun w => .subReg (fieldX w) (fieldY w)⟩,
    ⟨"SHR_Vx", 0x8006, 0xF00F, 0x8006, fun w => .shr (fieldX w) (fieldY w)⟩,
    ⟨"SUBN_Vx__Vy", 0x8007, 0xF00F, 0x8007, fun w => .subnReg (fieldX w) (fieldY w)⟩ ]

/-- The handler table of rule R64, rows 18 to 24. -/
def handlersHigh : List Row :=
  [ ⟨"SNE_Vx__Vy", 0x9000, 0xF000, 0x9000, fun w => .sneReg (fieldX w) (fieldY w) (fieldN w)⟩,
    ⟨"LD_I__nnn", 0xA000, 0xF000, 0xA000, fun w => .ldI (fieldNnn w)⟩,
    ⟨"JP_V0__nnn", 0xB000, 0xF000, 0xB000, fun w => .jpV0 (fieldNnn w)⟩,
    ⟨"RND_Vx__kk", 0xC000, 0xF000, 0xC000, fun w => .rnd (fieldX w) (fieldKk w)⟩,
    ⟨"DRW_Vx__Vy__n", 0xD000, 0xF000, 0xD000, fun w => .drw (fieldNnn w)⟩,
    ⟨"KEYOP_Vx__kk", 0xE000, 0xF000, 0xE000, fun w => .keyop (fieldNnn w)⟩,
    ⟨"MISC_Vx__kk", 0xF000, 0xF000, 0xF000, fun w => .misc (fieldNnn w)⟩ ]

/-- The handler table of rule R64: 24 rows, a constant. -/
def handlerTable : List Row := handlersLow ++ handlersAlu ++ handlersHigh

/-- Why the decoder rejects. -/
inductive DecodeReject where
  /-- The word's key has no registered handler (R65). -/
  | noHandler (key : Word)
  /-- Fewer than two bytes were given (R60: every instruction is exactly 2 bytes). A step never meets it. -/
  | truncated
  deriving DecidableEq, Repr

/-- The decoder over an instruction word: key, then lookup (R63, R64, R71). It depends on the word alone. -/
def decodeWord (w : Word) : Except DecodeReject Instr :=
  match handlerTable.find? (fun r => r.key == dispatchKey w) with
  | some r => .ok (r.build w)
  | none => .error (.noHandler (dispatchKey w))

/-- The decoder over bytes in memory order, high byte first (R60, R43): the instruction and the bytes after it. -/
def decode : List Byte → Except DecodeReject (Instr × List Byte)
  | hi :: lo :: rest =>
    match decodeWord (joinBytes hi lo) with
    | .ok i => .ok (i, rest)
    | .error e => .error e
  | _ => .error .truncated

/-- The word of an instruction, from the word patterns of rule R64 and the formats of rule R62. -/
def encode : Instr → Word
  | .cls ign => 0x0#4 ++ ign ++ 0xE0#8
  | .ret ign => 0x0#4 ++ ign ++ 0xEE#8
  | .jp nnn => 0x1#4 ++ nnn
  | .call nnn => 0x2#4 ++ nnn
  | .seImm x kk => 0x3#4 ++ x ++ kk
  | .sneImm x kk => 0x4#4 ++ x ++ kk
  | .seReg x y ign => 0x5#4 ++ x ++ y ++ ign
  | .ldImm x kk => 0x6#4 ++ x ++ kk
  | .addImm x kk => 0x7#4 ++ x ++ kk
  | .ldReg x y => 0x8#4 ++ x ++ y ++ 0x0#4
  | .orReg x y => 0x8#4 ++ x ++ y ++ 0x1#4
  | .andReg x y => 0x8#4 ++ x ++ y ++ 0x2#4
  | .xorReg x y => 0x8#4 ++ x ++ y ++ 0x3#4
  | .addReg x y => 0x8#4 ++ x ++ y ++ 0x4#4
  | .subReg x y => 0x8#4 ++ x ++ y ++ 0x5#4
  | .shr x ign => 0x8#4 ++ x ++ ign ++ 0x6#4
  | .subnReg x y => 0x8#4 ++ x ++ y ++ 0x7#4
  | .sneReg x y ign => 0x9#4 ++ x ++ y ++ ign
  | .ldI nnn => 0xA#4 ++ nnn
  | .jpV0 nnn => 0xB#4 ++ nnn
  | .rnd x kk => 0xC#4 ++ x ++ kk
  | .drw ign => 0xD#4 ++ ign
  | .keyop ign => 0xE#4 ++ ign
  | .misc ign => 0xF#4 ++ ign

/-- The bytes of an instruction in memory order, high byte first (R43). -/
def encodeBytes (i : Instr) : List Byte := [hiByte (encode i), loByte (encode i)]

/-- The word spec/opcode_table.json's numbering gives: `w` cut to `nbits` bits, every bit above them 0. -/
def tableWord (nbits w : Nat) : Word := BitVec.ofNat 16 (w % 2 ^ nbits)

/-- What the decoder reads from the instruction whose bits are `w` in the numbering of spec/opcode_table.json. -/
def decodeTableWord (nbits w : Nat) : Option Instr :=
  match decode [hiByte (tableWord nbits w), loByte (tableWord nbits w)] with
  | .ok (i, _) => some i
  | .error _ => none

end Sys2Proof
end

