-- ==== Sys2Proof/Machine/Place.lean ====
section
/-! DEFINITION. Decoding inside a step, and placing an instruction where the next fetch reads it. -/

namespace Sys2Proof.Machine

/-- Key and lookup of a step (R68): a word whose key has no handler is a `DecodeError` that records `pc`, the word and
the key (R131). -/
def decodeStep (s : State) (w : Word) : Except Fault Instr :=
  match decodeWord w with
  | .ok i => .ok i
  | .error _ => .error (.decodeError s.pc w (dispatchKey w))

/-- Stores the word `w` where the fetch of the next step reads it, high byte first (R43). At a `pc` above 0x0FFE there is
no such place (R42), and nothing is stored. -/
def placeWord (s : State) (w : Word) : State :=
  if memSize ≤ s.pc.toNat + 1 then s
  else s.setMem ((s.mem.write s.pc.toNat (hiByte w)).write (s.pc.toNat + 1) (loByte w))

end Sys2Proof.Machine
end

