-- ==== Sys2Proof/Machine/Step.lean ====
section
/-! DEFINITION. The `step` event (spec/30_encoding.md rule R68), and the placing of an instruction for the next fetch. -/

namespace Sys2Proof.Machine

/-- `Step` of rule R68: fetch, key and lookup, `status <- EXECUTED`, then the handler. An error leaves no state behind: the
Machine State is the one before the step (R135), and `State.stepEvent` keeps the mark of it (R136). -/
def step (s : State) : Host.Outcome State Fault Refusal :=
  match s.fetch with
  | .error f => .fault f
  | .ok w =>
    match decodeStep s w with
    | .error f => .fault f
    | .ok i => exec i s.beginStep

/-- `s` with the instruction of bits `w` (numbered as spec/opcode_table.json numbers them) where `step` fetches next. It
stands for the loader's writes (R161, log entry 22). -/
def State.withFetchWord (s : State) (nbits w : Nat) : State := placeWord s (tableWord nbits w)

end Sys2Proof.Machine
end

