-- ==== Sys2Proof/Machine/Events.lean ====
section
/-! DEFINITION. The five atomic events the host applies to the core (spec/10_state.md rule R24), with the inputs and
outputs of each. Events never overlap, and the host may apply them in any order (R24, R50); `step` of Step.lean is the
second of them (log entry 21). -/

namespace Sys2Proof.Machine

/-- An event and its inputs (R24). An address of a host access is in 0..4095 by its type. `rnd_in` is not listed with
`step`: it is the free value that RND draws (log entry 4). -/
inductive Event where
  | reset
  | step
  | tick
  | hostWrite (a : Addr) (b : Byte)
  | hostRead (a : Addr)
  deriving DecidableEq, Repr

/-- What an event puts out (R24, R25). -/
inductive Output where
  /-- `reset`, `tick`, `host_write`: none. -/
  | none
  /-- `step`: the outcome, `Option.none` for `OK`, with its `info`; and the status. -/
  | stepped (outcome : Option Fault) (status : Status)
  /-- A step the model refuses; no step of this model is. -/
  | refused (r : Refusal)
  /-- `host_read`: `mem[a]`. -/
  | byte (b : Byte)
  deriving DecidableEq, Repr

/-- The numeric code of a step's outcome (R130): 0 is `OK`. -/
def outcomeCode : Option Fault → Nat
  | Option.none => 0
  | some (.decodeError _ _ _) => 1
  | some (.stackOverflow _ _) => 2
  | some (.stackUnderflow _ _) => 3
  | some (.accessViolation _) => 4

/-- One timer's decrement: "toward zero", and a timer at zero stays at zero (R141, D16). -/
def timerDown (v : Byte) : Byte := if v = 0x00 then v else v - 1

/-- The `tick` event: each timer on its own (R141). -/
def State.tick (s : State) : State := s.setTimers (timerDown s.dt) (timerDown s.st)

/-- The `reset` event: every field of the Machine State at its reset value (R160). The parameters stay, the random
source, which is outside the core, is not rewound (log entry 24), and the mark of a failed run is not cleared (U7, log entry
33). -/
def State.resetEvent (s : State) : State := { State.reset with cfg := s.cfg, draws := s.draws, failed := s.failed }

/-- The `host_write(a, b)` event (R24). -/
def State.hostWrite (s : State) (a : Addr) (b : Byte) : State := s.setMem (s.mem.write a.toNat b)

/-- The `host_read(a)` event (R24). -/
def State.hostRead (s : State) (a : Addr) : Byte := s.mem.read a.toNat

/-- The `step` event as the driver sees it (R25, R135): an error leaves the Machine State as it was, with status EXECUTED, and
marks the run as failed (R136, U7, log entry 33). -/
def State.stepEvent (s : State) : State × Output :=
  match step s with
  | .next t => (t, .stepped Option.none t.status)
  | .fault f => (s.setFailed true, .stepped (some f) .executed)
  | .refused r => (s, .refused r)

/-- One event: the state after it, and its output (R24). -/
def applyEvent (s : State) : Event → State × Output
  | .reset => (s.resetEvent, .none)
  | .step => s.stepEvent
  | .tick => (s.tick, .none)
  | .hostWrite a b => (s.hostWrite a b, .none)
  | .hostRead a => (s, .byte (s.hostRead a))

/-- The state after a sequence of events, in the one total order of events (R49). -/
def runEvents : List Event → State → State
  | [], s => s
  | e :: rest, s => runEvents rest (applyEvent s e).1

end Sys2Proof.Machine
end

