-- ==== Sys2Proof/Safety.lean ====
section
/-! DEFINITION. The terms in which claims are made: what a step may leave unchanged, the invariant of the machine, and
how a run ends (spec/70_reset_and_hazards.md rule R169). -/

namespace Sys2Proof.Machine

/-! Words. -/

/-- The number `n`, read as a 16-bit word, decodes to `i`. -/
abbrev decodesTo (n : Nat) (i : Instr) : Prop := decodeWord (BitVec.ofNat 16 n) = .ok i

/-- The words with no handler, by the conditions of R131 on the numbers `w[15:12]`, `w[7:0]` and `w[3:0]`. -/
abbrev illegalWord (w : Word) : Prop :=
  (w.toNat / 4096 = 0x0 ∧ w.toNat % 256 ≠ 0xE0 ∧ w.toNat % 256 ≠ 0xEE) ∨ (w.toNat / 4096 = 0x8 ∧ 0x8 ≤ w.toNat % 16)

/-- The 16-bit number in the two bytes at `a` and `a + 1`, the byte at `a` the more significant (R43, R44). -/
def State.wordAt (s : State) (a : Nat) : Nat := 256 * (s.mem.read a).toNat + (s.mem.read (a + 1)).toNat

/-! Frames: what `t` has as `s` had it. -/

/-- The general registers other than those `written` holds of. -/
def sameRegs (written : Reg → Prop) (s t : State) : Prop := ∀ r, ¬ written r → t.getV r = s.getV r

/-- Every byte of memory outside the `n` bytes from `lo`. -/
def sameMemOutside (lo n : Nat) (s t : State) : Prop := ∀ a, (a < lo ∨ lo + n ≤ a) → t.mem.read a = s.mem.read a

/-- Every byte of memory. -/
def sameMem (s t : State) : Prop := ∀ a, t.mem.read a = s.mem.read a

/-- `I`, the address register, and `DT` and `ST`, the timers. -/
def sameSpecial (s t : State) : Prop := t.ireg = s.ireg ∧ t.dt = s.dt ∧ t.st = s.st

/-- The model's own fields: the parameters, the status output, the two marks, the count of RND. -/
def sameModel (s t : State) : Prop :=
  t.cfg = s.cfg ∧ t.status = s.status ∧ t.unimplSeen = s.unimplSeen ∧ t.draws = s.draws ∧ t.failed = s.failed

/-- Everything but `pc` and the general registers that `written` holds of. -/
def frame (written : Reg → Prop) (s t : State) : Prop :=
  sameRegs written s t ∧ sameMem s t ∧ sameSpecial s t ∧ t.sp = s.sp ∧ sameModel s t

/-- No general register is written. -/
def noReg : Reg → Prop := fun _ => False

/-! Bounds. -/

/-- `addr` lies in the stack region `[STACK_BOTTOM, STACK_TOP - 1]` (R47). -/
abbrev inStack (c : Config) (addr : Int) : Prop := 0x0EA0 ≤ addr ∧ addr ≤ ((stackTop c).toNat : Int) - 1

/-- The stack invariant of R18: `STACK_BOTTOM <= sp <= STACK_TOP`, and `sp` even. -/
abbrev stackOk (s : State) : Prop :=
  0x0EA0 ≤ s.sp.toNat ∧ s.sp.toNat ≤ (stackTop s.cfg).toNat ∧ s.sp.toNat % 2 = 0

/-- The invariant of the machine: memory in its canonical form, and the stack invariant of R18. -/
abbrev Inv (s : State) : Prop := s.mem.wf ∧ stackOk s

/-! The ends of a run (R169). -/

/-- Parked end: `pc` holds the address of a `JP` to itself. -/
abbrev parkedEnd (s : State) : Prop := s.pc.toNat ≤ 0x0FFE ∧ s.wordAt s.pc.toNat = 0x1000 + s.pc.toNat

/-- Failed end: some step event of the run ended in an error. "The run has gone wrong; it is never a successful end" (R169,
R136, U7). -/
abbrev failedEnd (s : State) : Prop := s.failed = true

/-- The final state of a program: parked, in a run that has not failed (R169, U7). -/
abbrev finalEnd (s : State) : Prop := parkedEnd s ∧ ¬ failedEnd s

/-! What an instruction may write, and where it goes. -/

/-- The general register an instruction names as its destination (the "written by instructions" column of R10). -/
def destReg : Instr → Option Reg
  | .ldImm x _ | .addImm x _ | .ldReg x _ | .orReg x _ | .andReg x _ | .xorReg x _ => some x
  | .addReg x _ | .subReg x _ | .shr x _ | .subnReg x _ | .rnd x _ => some x
  | .cls _ | .ret _ | .jp _ | .call _ | .seImm _ _ | .sneImm _ _ | .seReg _ _ _ | .sneReg _ _ _ => none
  | .ldI _ | .jpV0 _ | .drw _ | .keyop _ | .misc _ => none

/-- The four instructions that write `VF` as a side effect, and the number each writes (the table of R13). -/
def flagWritten (s : State) : Instr → Option Nat
  | .addReg x y => some (if 0xFF < (s.getV x).toNat + (s.getV y).toNat then 1 else 0)
  | .subReg x y => some (if (s.getV y).toNat < (s.getV x).toNat then 1 else 0)
  | .shr x _ => some ((s.getV x).toNat % 2)
  | .subnReg x y => some (if (s.getV x).toNat < (s.getV y).toNat then 1 else 0)
  | .cls _ | .ret _ | .jp _ | .call _ | .seImm _ _ | .sneImm _ _ | .seReg _ _ _ | .sneReg _ _ _ => none
  | .ldImm _ _ | .addImm _ _ | .ldReg _ _ | .orReg _ _ | .andReg _ _ | .xorReg _ _ => none
  | .ldI _ | .jpV0 _ | .rnd _ _ | .drw _ | .keyop _ | .misc _ => none

/-- The new `pc` of each instruction, as a number: the table of R17. -/
def pcAfter (s : State) : Instr → Nat
  | .jp nnn | .call nnn => nnn.toNat
  | .jpV0 nnn => nnn.toNat + (s.getV 0x0#4).toNat
  | .ret _ => s.wordAt (s.sp.toNat - 2)
  | .seImm x kk => if s.getV x = kk then s.pc.toNat + 4 else s.pc.toNat + 2
  | .sneImm x kk => if s.getV x = kk then s.pc.toNat + 2 else s.pc.toNat + 4
  | .seReg x y _ => if s.getV x = s.getV y then s.pc.toNat + 4 else s.pc.toNat + 2
  | .sneReg x y _ => if s.getV x = s.getV y then s.pc.toNat + 2 else s.pc.toNat + 4
  | .drw _ | .keyop _ | .misc _ => if s.cfg.unimplAdvancesPc then s.pc.toNat + 2 else s.pc.toNat
  | .cls _ | .ldImm _ _ | .addImm _ _ | .ldReg _ _ | .orReg _ _ | .andReg _ _ | .xorReg _ _ => s.pc.toNat + 2
  | .addReg _ _ | .subReg _ _ | .shr _ _ | .subnReg _ _ | .ldI _ | .rnd _ _ => s.pc.toNat + 2

/-- The answer with its next state changed by `f`. -/
def mapNext (f : State → State) : Out → Out
  | .next t => .next (f t)
  | .fault e => .fault e
  | .refused r => .refused r

/-! Sequences of executed instructions. -/

/-- The instructions of a list executed in order, each on the state the one before it left. -/
def execAll : List Instr → State → Out
  | [], s => .next s
  | i :: rest, s =>
    match exec i s with
    | .next t => execAll rest t
    | .fault f => .fault f
    | .refused r => .refused r

/-- An instruction that touches neither the stack nor the display (R40: neither CALL, RET nor CLS). -/
def plainInstr : Instr → Bool
  | .cls _ | .ret _ | .call _ => false
  | .jp _ | .seImm _ _ | .sneImm _ _ | .seReg _ _ _ | .sneReg _ _ _ | .ldI _ | .jpV0 _ => true
  | .ldImm _ _ | .addImm _ _ | .ldReg _ _ | .orReg _ _ | .andReg _ _ | .xorReg _ _ => true
  | .addReg _ _ | .subReg _ _ | .shr _ _ | .subnReg _ _ | .rnd _ _ | .drw _ | .keyop _ | .misc _ => true

/-- Whether the instruction is CLS. -/
def isCls : Instr → Bool
  | .cls _ => true
  | .ret _ | .call _ | .jp _ | .seImm _ _ | .sneImm _ _ | .seReg _ _ _ | .sneReg _ _ _ | .ldI _ | .jpV0 _ => false
  | .ldImm _ _ | .addImm _ _ | .ldReg _ _ | .orReg _ _ | .andReg _ _ | .xorReg _ _ => false
  | .addReg _ _ | .subReg _ _ | .shr _ _ | .subnReg _ _ | .rnd _ _ | .drw _ | .keyop _ | .misc _ => false

/-- A sequence in which every CALL is matched by a later RET, nested to any depth, with no CLS (R89: "This round trip holds
as long as the frame's bytes are not overwritten"). -/
inductive Balanced : List Instr → Prop where
  | nil : Balanced []
  | plain {i : Instr} {rest : List Instr} : plainInstr i = true → Balanced rest → Balanced (i :: rest)
  | nested {nnn : Addr} {ign : BitVec 4} {body rest : List Instr} :
      Balanced body → Balanced rest → Balanced (.call nnn :: (body ++ .ret ign :: rest))

end Sys2Proof.Machine
end

