-- ==== Sys2Proof/Certificates/Slice0/Obligations.lean ====
section
/-! DEFINITION. The statements for the provers. Each docstring says which rule of spec/ the statement formalises; the terms
they use (`frame`, `sameMem`, `inStack`, `wordAt`, …) are those of Sys2Proof/Safety.lean. Every statement is about every
state, so about every admissible `STACK_TOP` and both values of `UNIMPL_ADVANCES_PC` (log entries 2 and 3). The leading nibbles of
the words of families 1 to 7, 9, and A to D are the spec's own reconstruction (D27, log entry 1). -/

open Sys2Proof Sys2Proof.Machine

/-! ## Load, arithmetic and logic: the word, the result, `pc`, and everything else unchanged. -/

/-- R101, at the word R64 gives it (D27, log entry 1). -/
def Obligations.LdImmLoadsTheImmediate : Prop :=
  ∀ (x : Reg) (kk : Byte) (s : State),
    decodesTo (0x6000 + 256 * x.toNat + kk.toNat) (.ldImm x kk) ∧
    ∃ t, exec (.ldImm x kk) s = .next t ∧ t.getV x = kk ∧ t.pc = s.pc + 2 ∧ frame (· = x) s t

/-- R102, at the word R64 gives it (D27, log entry 1). `VF` is written only as the destination. -/
def Obligations.AddImmAddsModulo256WithoutFlag : Prop :=
  ∀ (x : Reg) (kk : Byte) (s : State),
    decodesTo (0x7000 + 256 * x.toNat + kk.toNat) (.addImm x kk) ∧
    ∃ t, exec (.addImm x kk) s = .next t ∧ (t.getV x).toNat = ((s.getV x).toNat + kk.toNat) % 256 ∧
      t.pc = s.pc + 2 ∧ frame (· = x) s t

/-- R103. -/
def Obligations.LdRegCopiesTheSecondRegister : Prop :=
  ∀ (x y : Reg) (s : State),
    decodesTo (0x8000 + 256 * x.toNat + 16 * y.toNat) (.ldReg x y) ∧
    ∃ t, exec (.ldReg x y) s = .next t ∧ t.getV x = s.getV y ∧ t.pc = s.pc + 2 ∧ frame (· = x) s t

/-- R104, bit by bit. -/
def Obligations.OrCombinesTheRegistersBitwise : Prop :=
  ∀ (x y : Reg) (s : State),
    decodesTo (0x8001 + 256 * x.toNat + 16 * y.toNat) (.orReg x y) ∧
    ∃ t, exec (.orReg x y) s = .next t ∧
      (∀ k, (t.getV x).getLsbD k = ((s.getV x).getLsbD k || (s.getV y).getLsbD k)) ∧
      t.pc = s.pc + 2 ∧ frame (· = x) s t

/-- R105, bit by bit. -/
def Obligations.AndCombinesTheRegistersBitwise : Prop :=
  ∀ (x y : Reg) (s : State),
    decodesTo (0x8002 + 256 * x.toNat + 16 * y.toNat) (.andReg x y) ∧
    ∃ t, exec (.andReg x y) s = .next t ∧
      (∀ k, (t.getV x).getLsbD k = ((s.getV x).getLsbD k && (s.getV y).getLsbD k)) ∧
      t.pc = s.pc + 2 ∧ frame (· = x) s t

/-- R106, bit by bit; with `x == y` the result is 0x00. -/
def Obligations.XorCombinesTheRegistersBitwise : Prop :=
  ∀ (x y : Reg) (s : State),
    decodesTo (0x8003 + 256 * x.toNat + 16 * y.toNat) (.xorReg x y) ∧
    ∃ t, exec (.xorReg x y) s = .next t ∧
      (∀ k, (t.getV x).getLsbD k = ((s.getV x).getLsbD k ^^ (s.getV y).getLsbD k)) ∧
      (x = y → t.getV x = 0x00) ∧ t.pc = s.pc + 2 ∧ frame (· = x) s t

/-- R107: the sum and the carry; with `x = 0xF` the sum stands and the carry is lost. `8xy4` is the source's own number. -/
def Obligations.AddRegStoresTheSumAndTheCarry : Prop :=
  ∀ (x y : Reg) (s : State),
    decodesTo (0x8004 + 256 * x.toNat + 16 * y.toNat) (.addReg x y) ∧
    ∃ t, exec (.addReg x y) s = .next t ∧
      (t.getV x).toNat = ((s.getV x).toNat + (s.getV y).toNat) % 256 ∧
      (x ≠ 0xF#4 → (t.getV 0xF#4).toNat = if 0xFF < (s.getV x).toNat + (s.getV y).toNat then 1 else 0) ∧
      t.pc = s.pc + 2 ∧ frame (fun r => r = x ∨ r = 0xF#4) s t

/-- R108: the difference modulo 256 in every case (the spec's decision D8, log entry 11), and the strict comparison; with
`x = 0xF` the difference stands, and both sources are read first (its decision D7, log entry 10). -/
def Obligations.SubRegStoresTheDifferenceAndTheComparison : Prop :=
  ∀ (x y : Reg) (s : State),
    decodesTo (0x8005 + 256 * x.toNat + 16 * y.toNat) (.subReg x y) ∧
    ∃ t, exec (.subReg x y) s = .next t ∧
      (t.getV x).toNat = (256 + (s.getV x).toNat - (s.getV y).toNat) % 256 ∧
      (x ≠ 0xF#4 → (t.getV 0xF#4).toNat = if (s.getV y).toNat < (s.getV x).toNat then 1 else 0) ∧
      t.pc = s.pc + 2 ∧ frame (fun r => r = x ∨ r = 0xF#4) s t

/-- R109: the halved register and the bit shifted out, of `V[x]` whatever the ignored field (the spec's decision D9, log entry
12); with `x = 0xF` the result stands (its decision D7, log entry 10). -/
def Obligations.ShrHalvesTheRegisterAndKeepsTheLowBit : Prop :=
  ∀ (x : Reg) (ign : BitVec 4) (s : State),
    decodesTo (0x8006 + 256 * x.toNat + 16 * ign.toNat) (.shr x ign) ∧
    ∃ t, exec (.shr x ign) s = .next t ∧ (t.getV x).toNat = (s.getV x).toNat / 2 ∧
      (x ≠ 0xF#4 → (t.getV 0xF#4).toNat = (s.getV x).toNat % 2) ∧
      t.pc = s.pc + 2 ∧ frame (fun r => r = x ∨ r = 0xF#4) s t

/-- R110: as R108 with the operands exchanged (D8 and D7, log entries 11 and 10); the destination is still `V[x]`. -/
def Obligations.SubnRegStoresTheReversedDifference : Prop :=
  ∀ (x y : Reg) (s : State),
    decodesTo (0x8007 + 256 * x.toNat + 16 * y.toNat) (.subnReg x y) ∧
    ∃ t, exec (.subnReg x y) s = .next t ∧
      (t.getV x).toNat = (256 + (s.getV y).toNat - (s.getV x).toNat) % 256 ∧
      (x ≠ 0xF#4 → (t.getV 0xF#4).toNat = if (s.getV x).toNat < (s.getV y).toNat then 1 else 0) ∧
      t.pc = s.pc + 2 ∧ frame (fun r => r = x ∨ r = 0xF#4) s t

/-- R111, at the word R64 gives it (D27, log entry 1): `I` is the zero-extended operand; no general register, byte of memory or
other register changes. -/
def Obligations.LdILoadsTheAddressOperand : Prop :=
  ∀ (nnn : Addr) (s : State),
    decodesTo (0xA000 + nnn.toNat) (.ldI nnn) ∧
    ∃ t, exec (.ldI nnn) s = .next t ∧ t.ireg.toNat = nnn.toNat ∧ t.pc = s.pc + 2 ∧
      sameRegs noReg s t ∧ sameMem s t ∧ t.dt = s.dt ∧ t.st = s.st ∧ t.sp = s.sp ∧ sameModel s t

/-! ## Control flow. -/

/-- R81, at the word R64 gives it (D27, log entry 1): a jump to its own address changes no state; a target of 0x0FFF is
accepted, and the next fetch raises. -/
def Obligations.JpSetsThePcToItsOperand : Prop :=
  ∀ (nnn : Addr) (s : State),
    decodesTo (0x1000 + nnn.toNat) (.jp nnn) ∧
    ∃ t, exec (.jp nnn) s = .next t ∧ t.pc.toNat = nnn.toNat ∧ frame noReg s t ∧
      (nnn.toNat = s.pc.toNat → t = s) ∧
      (nnn = 0x0FFF#12 → step t = .fault (.accessViolation 0x1000))

/-- R87, at the word R64 gives it (D27, log entry 1): the sum is not reduced to 12 bits, and above 0x0FFF the next fetch raises
(the spec's decision D25, log entry 16). -/
def Obligations.JpV0AddsRegisterZeroToItsOperand : Prop :=
  ∀ (nnn : Addr) (s : State),
    decodesTo (0xB000 + nnn.toNat) (.jpV0 nnn) ∧
    ∃ t, exec (.jpV0 nnn) s = .next t ∧ t.pc.toNat = nnn.toNat + (s.getV 0x0#4).toNat ∧ frame noReg s t ∧
      (0x0FFF < t.pc.toNat → step t = .fault (.accessViolation t.pc.toNat))

/-- R83, at the word R64 gives it (D27, log entry 1). -/
def Obligations.SeImmSkipsWhenEqual : Prop :=
  ∀ (x : Reg) (kk : Byte) (s : State),
    decodesTo (0x3000 + 256 * x.toNat + kk.toNat) (.seImm x kk) ∧
    ∃ t, exec (.seImm x kk) s = .next t ∧ t.pc = (if s.getV x = kk then s.pc + 4 else s.pc + 2) ∧ frame noReg s t

/-- R84, at the word R64 gives it (D27, log entry 1). -/
def Obligations.SneImmSkipsWhenDifferent : Prop :=
  ∀ (x : Reg) (kk : Byte) (s : State),
    decodesTo (0x4000 + 256 * x.toNat + kk.toNat) (.sneImm x kk) ∧
    ∃ t, exec (.sneImm x kk) s = .next t ∧ t.pc = (if s.getV x ≠ kk then s.pc + 4 else s.pc + 2) ∧ frame noReg s t

/-- R85, at the words R64 gives it (D27, log entry 1), whatever the ignored nibble; `x == y` always skips. -/
def Obligations.SeRegSkipsWhenEqual : Prop :=
  ∀ (x y : Reg) (ign : BitVec 4) (s : State),
    decodesTo (0x5000 + 256 * x.toNat + 16 * y.toNat + ign.toNat) (.seReg x y ign) ∧
    ∃ t, exec (.seReg x y ign) s = .next t ∧ t.pc = (if s.getV x = s.getV y then s.pc + 4 else s.pc + 2) ∧
      (x = y → t.pc = s.pc + 4) ∧ frame noReg s t

/-- R86, at the words R64 gives it (D27, log entry 1), whatever the ignored nibble; `x == y` never skips. -/
def Obligations.SneRegSkipsWhenDifferent : Prop :=
  ∀ (x y : Reg) (ign : BitVec 4) (s : State),
    decodesTo (0x9000 + 256 * x.toNat + 16 * y.toNat + ign.toNat) (.sneReg x y ign) ∧
    ∃ t, exec (.sneReg x y ign) s = .next t ∧ t.pc = (if s.getV x ≠ s.getV y then s.pc + 4 else s.pc + 2) ∧
      (x = y → t.pc = s.pc + 2) ∧ frame noReg s t

/-- R82: the full test, then the region check of `sp`, then of `sp + 1` (the spec's decisions D17 and D18, log entry 13);
otherwise the frame of `pc + 2` (its decision D3, log entry 7), masked to 12 bits, high byte at `sp`, and the jump. A frame that
lands in the display is display bytes (D15, log entry 19). -/
def Obligations.CallPushesTheReturnAddressAndJumps : Prop :=
  ∀ (nnn : Addr) (s : State),
    decodesTo (0x2000 + nnn.toNat) (.call nnn) ∧
    (s.sp = stackTop s.cfg → exec (.call nnn) s = .fault (.stackOverflow s.pc s.sp)) ∧
    (s.sp ≠ stackTop s.cfg → ¬ inStack s.cfg s.sp.toNat →
      exec (.call nnn) s = .fault (.accessViolation s.sp.toNat)) ∧
    (s.sp ≠ stackTop s.cfg → inStack s.cfg s.sp.toNat → ¬ inStack s.cfg (s.sp.toNat + 1) →
      exec (.call nnn) s = .fault (.accessViolation (s.sp.toNat + 1))) ∧
    (s.sp ≠ stackTop s.cfg → inStack s.cfg s.sp.toNat → inStack s.cfg (s.sp.toNat + 1) →
      ∃ t, exec (.call nnn) s = .next t ∧
        (t.mem.read s.sp.toNat).toNat = (s.pc + 2).toNat / 256 % 16 ∧
        (t.mem.read (s.sp.toNat + 1)).toNat = (s.pc + 2).toNat % 256 ∧
        t.sp.toNat = s.sp.toNat + 2 ∧ t.sp.toNat ≤ (stackTop s.cfg).toNat ∧ t.pc.toNat = nnn.toNat ∧
        (∀ k : Fin 256, s.sp.toNat = 0x0F00 + k.val → (t.displayByte k).toNat = (s.pc + 2).toNat / 256 % 16) ∧
        sameMemOutside s.sp.toNat 2 s t ∧ sameRegs noReg s t ∧ sameSpecial s t ∧ sameModel s t)

/-- R80: the empty test, then the region check of `sp - 2`, then of `sp - 1` (the spec's decisions D17 and D18, log entry 13);
otherwise the 16 bits of the frame into `pc`, with no masking (its decision D4, log entry 8), and the frame is not erased. -/
def Obligations.RetPopsTheFrameIntoThePc : Prop :=
  ∀ (ign : BitVec 4) (s : State),
    decodesTo (0x00EE + 256 * ign.toNat) (.ret ign) ∧
    (s.sp.toNat = 0x0EA0 → exec (.ret ign) s = .fault (.stackUnderflow s.pc s.sp)) ∧
    (s.sp.toNat ≠ 0x0EA0 → ¬ inStack s.cfg ((s.sp.toNat : Int) - 2) →
      exec (.ret ign) s = .fault (.accessViolation ((s.sp.toNat : Int) - 2))) ∧
    (s.sp.toNat ≠ 0x0EA0 → inStack s.cfg ((s.sp.toNat : Int) - 2) → ¬ inStack s.cfg ((s.sp.toNat : Int) - 1) →
      exec (.ret ign) s = .fault (.accessViolation ((s.sp.toNat : Int) - 1))) ∧
    (s.sp.toNat ≠ 0x0EA0 → inStack s.cfg ((s.sp.toNat : Int) - 2) → inStack s.cfg ((s.sp.toNat : Int) - 1) →
      ∃ t, exec (.ret ign) s = .next t ∧ t.pc.toNat = s.wordAt (s.sp.toNat - 2) ∧ t.sp.toNat = s.sp.toNat - 2 ∧
        (0x0FFF ≤ t.pc.toNat → ∃ a, step t = .fault (.accessViolation a)) ∧
        sameMem s t ∧ sameRegs noReg s t ∧ sameSpecial s t ∧ sameModel s t)

/-! ## Display, random, placeholders. -/

/-- R120. The clause on the next fetch holds for `pc` up to 0x0FFC; from 0x0FFD the advanced `pc` leaves memory and the fetch
raises AccessViolation by R42 (log entry 29). That a pixel of value 0 is dark is the polarity the spec takes from general knowledge (G6, log entry 20, PRESUMED).
-/
def Obligations.ClsZeroesTheDisplayAndNothingElse : Prop :=
  ∀ (ign : BitVec 4) (s : State),
    decodesTo (0x00E0 + 256 * ign.toNat) (.cls ign) ∧
    ∃ t, exec (.cls ign) s = .next t ∧ (∀ a, 0x0F00 ≤ a → a ≤ 0x0FFF → t.mem.read a = 0x00) ∧
      sameMemOutside 0x0F00 256 s t ∧ t.pc = s.pc + 2 ∧ (∀ c r, t.pixelLit c r = false) ∧
      (0x0F00 ≤ s.pc.toNat → s.pc.toNat ≤ 0x0FFC → step t = .fault (.decodeError t.pc 0x0000 0x0000)) ∧
      sameRegs noReg s t ∧ sameSpecial s t ∧ t.sp = s.sp ∧ sameModel s t

/-- R121. `rnd_in` is the free value `Config.rndIn` at the count of RND (log entry 4): nothing is claimed of it. With any byte
from the source, the result has a 0 in every bit where `kk` has a 0. -/
def Obligations.RndStoresTheRandomByteUnderTheMask : Prop :=
  ∀ (x : Reg) (kk : Byte) (s : State),
    decodesTo (0xC000 + 256 * x.toNat + kk.toNat) (.rnd x kk) ∧
    (∀ rndIn k, ((rndWith rndIn x kk s).getV x).getLsbD k = (rndIn.getLsbD k && kk.getLsbD k)) ∧
    ∃ t, exec (.rnd x kk) s = .next t ∧ t = rndWith (Config.rndIn s.draws) x kk s ∧
      t.pc = s.pc + 2 ∧ t.draws = s.draws + 1 ∧
      sameRegs (· = x) s t ∧ sameMem s t ∧ sameSpecial s t ∧ t.sp = s.sp ∧
      t.cfg = s.cfg ∧ t.status = s.status ∧ t.unimplSeen = s.unimplSeen ∧ t.failed = s.failed

/-- R125, for DRW, KEYOP and MISC with any low twelve bits: decoding succeeds, the status is UNIMPLEMENTED, `pc` advances by
the parameter (the spec's decision D10, log entry 3), nothing else of the machine changes, and no later instruction clears the
mark (log entry 5). -/
def Obligations.PlaceholdersOnlyReportAndAdvance : Prop :=
  ∀ (low : BitVec 12) (s : State),
    decodesTo (0xD000 + low.toNat) (.drw low) ∧ decodesTo (0xE000 + low.toNat) (.keyop low) ∧
    decodesTo (0xF000 + low.toNat) (.misc low) ∧
    ∀ i, (i = .drw low ∨ i = .keyop low ∨ i = .misc low) →
      ∃ t, exec i s = .next t ∧ t.status = .unimplemented ∧ t.unimplSeen = true ∧
        t.pc = (if s.cfg.unimplAdvancesPc then s.pc + 2 else s.pc) ∧
        sameRegs noReg s t ∧ sameMem s t ∧ sameSpecial s t ∧ t.sp = s.sp ∧ t.cfg = s.cfg ∧ t.draws = s.draws ∧
        t.failed = s.failed ∧
        ∀ j u, exec j t = .next u → u.unimplSeen = true

/-! ## Encoding. -/

/-- Words written out from the spec's encodings, at least one of every format of R62 and every kind of word of R64 and R65. -/
def Obligations.DecodesTheWordsOfTheSpec : Prop :=
  decodeWord 0x00E0 = .ok (.cls 0x0) ∧ decodeWord 0x0AE0 = .ok (.cls 0xA) ∧
  decodeWord 0x00EE = .ok (.ret 0x0) ∧ decodeWord 0x07EE = .ok (.ret 0x7) ∧
  decodeWord 0x1ABC = .ok (.jp 0xABC) ∧ decodeWord 0x2206 = .ok (.call 0x206) ∧
  decodeWord 0x332A = .ok (.seImm 0x3 0x2A) ∧ decodeWord 0x5AB7 = .ok (.seReg 0xA 0xB 0x7) ∧
  decodeWord 0x8AB4 = .ok (.addReg 0xA 0xB) ∧ decodeWord 0x8F06 = .ok (.shr 0xF 0x0) ∧
  decodeWord 0x9AB1 = .ok (.sneReg 0xA 0xB 0x1) ∧ decodeWord 0xA555 = .ok (.ldI 0x555) ∧
  decodeWord 0xC0FF = .ok (.rnd 0x0 0xFF) ∧ decodeWord 0xD015 = .ok (.drw 0x015) ∧
  decodeWord 0xE19E = .ok (.keyop 0x19E) ∧ decodeWord 0xFFFF = .ok (.misc 0xFFF) ∧
  decodeWord 0x00E1 = .error (.noHandler 0x00E1) ∧ decodeWord 0x0123 = .error (.noHandler 0x0023) ∧
  decodeWord 0x8AB8 = .error (.noHandler 0x8008) ∧ decodeWord 0x8ABE = .error (.noHandler 0x800E)

/-- Decode and encode agree, for every instruction and every value of every field, in words and in bytes. -/
def Obligations.DecodeOfEncodeIsTheInstruction : Prop :=
  ∀ i : Instr, decodeWord (encode i) = .ok i ∧ ∀ rest, decode (encodeBytes i ++ rest) = .ok (i, rest)

/-- The other direction: a word that decodes is the word of the instruction it decodes to, so no bit of it is dropped. -/
def Obligations.EncodeOfDecodedIsTheWord : Prop :=
  ∀ (w : Word) (i : Instr), decodeWord w = .ok i → encode i = w

/-- R65, R67: the decoder rejects exactly the words of R65's table, `8xyE` among them (the spec's decision D5, log entry 18),
and names the key. -/
def Obligations.DecoderRejectsExactlyTheIllegalWords : Prop :=
  ∀ w : Word, (illegalWord w → decodeWord w = .error (.noHandler (dispatchKey w))) ∧
    (¬ illegalWord w → ∃ i, decodeWord w = .ok i)

/-- R64: a word has a row's mask and match exactly when its key (R63) is the row's key; and no word has two rows. -/
def Obligations.RowsAreSelectedByMaskAndMatch : Prop :=
  ∀ w : Word, (∀ r ∈ handlerTable, w &&& r.mask = r.pattern ↔ r.key = dispatchKey w) ∧
    (∀ r ∈ handlerTable, ∀ q ∈ handlerTable,
      w &&& r.mask = r.pattern → w &&& q.mask = q.pattern → r.mnemonic = q.mnemonic)

/-- R66: bits that are neither key nor operand do not make a word illegal and do not change what it does (derived by the spec
from R63; log entry 17). -/
def Obligations.IgnoredBitsChangeNothing : Prop :=
  ∀ (g : BitVec 4) (low : BitVec 12) (x y : Reg) (s : State),
    (decodesTo (0x00E0 + 256 * g.toNat) (.cls g) ∧ exec (.cls g) s = exec (.cls 0) s) ∧
    (decodesTo (0x00EE + 256 * g.toNat) (.ret g) ∧ exec (.ret g) s = exec (.ret 0) s) ∧
    (decodesTo (0x5000 + 256 * x.toNat + 16 * y.toNat + g.toNat) (.seReg x y g) ∧
      exec (.seReg x y g) s = exec (.seReg x y 0) s) ∧
    (decodesTo (0x9000 + 256 * x.toNat + 16 * y.toNat + g.toNat) (.sneReg x y g) ∧
      exec (.sneReg x y g) s = exec (.sneReg x y 0) s) ∧
    (decodesTo (0x8006 + 256 * x.toNat + 16 * g.toNat) (.shr x g) ∧ exec (.shr x g) s = exec (.shr x 0) s) ∧
    (decodesTo (0xD000 + low.toNat) (.drw low) ∧ exec (.drw low) s = exec (.drw 0) s) ∧
    (decodesTo (0xE000 + low.toNat) (.keyop low) ∧ exec (.keyop low) s = exec (.keyop 0) s) ∧
    (decodesTo (0xF000 + low.toNat) (.misc low) ∧ exec (.misc low) s = exec (.misc 0) s)

/-! ## The step. -/

/-- R68: when the two bytes at `pc` decode to `i`, the step is `exec i` on the state with `status <- EXECUTED`; `pc` is not
moved by fetch or decode. -/
def Obligations.StepRunsTheDecodedInstruction : Prop :=
  ∀ (s : State) (i : Instr), s.pc.toNat ≤ 0x0FFE →
    decode [s.mem.read s.pc.toNat, s.mem.read (s.pc.toNat + 1)] = .ok (i, []) →
    step s = exec i s.beginStep ∧ s.beginStep.pc = s.pc ∧ frame noReg (s.setStatus .executed) s.beginStep

/-- R134: the cases that raise AccessViolation, with `info`, and no other (the region check is the spec's decision D17, log
entry 13; the fetch bound D25, log entry 16). -/
def Obligations.AccessViolationIsRaisedExactlySo : Prop :=
  ∀ (s : State) (a : Int), step s = .fault (.accessViolation a) ↔
    (0x0FFE < s.pc.toNat ∧ a = if 0x0FFF < s.pc.toNat then (s.pc.toNat : Int) else 0x1000) ∨
    (s.pc.toNat ≤ 0x0FFE ∧ s.wordAt s.pc.toNat / 4096 = 0x2 ∧ s.sp ≠ stackTop s.cfg ∧
      ((¬ inStack s.cfg s.sp.toNat ∧ a = s.sp.toNat) ∨
       (inStack s.cfg s.sp.toNat ∧ ¬ inStack s.cfg (s.sp.toNat + 1) ∧ a = s.sp.toNat + 1))) ∨
    (s.pc.toNat ≤ 0x0FFE ∧ s.wordAt s.pc.toNat / 4096 = 0x0 ∧ s.wordAt s.pc.toNat % 256 = 0xEE ∧ s.sp.toNat ≠ 0x0EA0 ∧
      ((¬ inStack s.cfg ((s.sp.toNat : Int) - 2) ∧ a = (s.sp.toNat : Int) - 2) ∨
       (inStack s.cfg ((s.sp.toNat : Int) - 2) ∧ ¬ inStack s.cfg ((s.sp.toNat : Int) - 1) ∧ a = (s.sp.toNat : Int) - 1)))

/-- R131: DecodeError, with `info`, exactly after a successful fetch of a word with no handler (`8xyE` among them by the spec's
decision D5, log entry 18). -/
def Obligations.DecodeErrorIsRaisedExactlySo : Prop :=
  ∀ (s : State) (p w k : Word), step s = .fault (.decodeError p w k) ↔
    s.pc.toNat ≤ 0x0FFE ∧ p = s.pc ∧ w.toNat = s.wordAt s.pc.toNat ∧ k = dispatchKey w ∧ illegalWord w

/-- R132: StackOverflow, with `info`, exactly for a CALL (family 2 by D27, log entry 1) with `sp == STACK_TOP`; with `sp` above
it, AccessViolation, by the region check (the spec's decision D17, log entry 13). -/
def Obligations.StackOverflowIsRaisedExactlySo : Prop :=
  ∀ s : State, (∀ p q, step s = .fault (.stackOverflow p q) ↔
      s.pc.toNat ≤ 0x0FFE ∧ s.wordAt s.pc.toNat / 4096 = 0x2 ∧ s.sp = stackTop s.cfg ∧ p = s.pc ∧ q = s.sp) ∧
    (s.pc.toNat ≤ 0x0FFE → s.wordAt s.pc.toNat / 4096 = 0x2 → (stackTop s.cfg).toNat < s.sp.toNat →
      step s = .fault (.accessViolation s.sp.toNat))

/-- R133: StackUnderflow, with `info`, exactly for a RET with `sp == STACK_BOTTOM`; with `sp` below it, AccessViolation of
`sp - 2`, by the region check (R47, R134, R137, the spec's decisions D17 and D18, log entry 13). -/
def Obligations.StackUnderflowIsRaisedExactlySo : Prop :=
  ∀ s : State, (∀ p q, step s = .fault (.stackUnderflow p q) ↔
      s.pc.toNat ≤ 0x0FFE ∧ s.wordAt s.pc.toNat / 4096 = 0x0 ∧ s.wordAt s.pc.toNat % 256 = 0xEE ∧
        s.sp.toNat = 0x0EA0 ∧ p = s.pc ∧ q = s.sp) ∧
    (s.pc.toNat ≤ 0x0FFE → s.wordAt s.pc.toNat / 4096 = 0x0 → s.wordAt s.pc.toNat % 256 = 0xEE → s.sp.toNat < 0x0EA0 →
      step s = .fault (.accessViolation ((s.sp.toNat : Int) - 2)))

/-- R71, R138: every step ends in a next state or in one of the four errors; none is refused. -/
def Obligations.NoStepIsRefused : Prop := ∀ (s : State) (r : Refusal), step s ≠ .refused r

/-- R25: the status of a step that ends OK is UNIMPLEMENTED exactly for a word of family D, E or F, and the mark (log entry 5)
is set by such a step and kept by every other. -/
def Obligations.StatusIsUnimplementedExactlyForPlaceholders : Prop :=
  ∀ s t : State, step s = .next t →
    (t.status = .unimplemented ↔ 0xD ≤ s.wordAt s.pc.toNat / 4096) ∧
    (t.unimplSeen = true ↔ s.unimplSeen = true ∨ 0xD ≤ s.wordAt s.pc.toNat / 4096)

/-- R169, a definition of the spec's own (D23, log entry 27): at a parked end a step completes and changes nothing but the status output, and the end is still parked. -/
def Obligations.ParkedStepChangesNothing : Prop :=
  ∀ s : State, parkedEnd s → step s = .next (s.setStatus .executed) ∧ parkedEnd (s.setStatus .executed)

/-- R135, R136 (the spec's decision D13, log entries 6 and 33): an error leaves the state as it was but for the model's own mark of
a failed run, so the next step raises the same error and leaves it so again. -/
def Obligations.ErrorLeavesTheStateUntouched : Prop :=
  ∀ (s : State) (f : Fault), step s = .fault f →
    applyEvent s .step = (s.setFailed true, .stepped (some f) .executed) ∧
    applyEvent (s.setFailed true) .step = (s.setFailed true, .stepped (some f) .executed)

/-! ## The whole machine. -/

/-- The invariant holds after reset. -/
def Obligations.InvariantHoldsAtReset : Prop := Inv State.reset

/-- R18: from every state in which memory is canonical, `sp` is even and `STACK_BOTTOM <= sp <= STACK_TOP`, a step keeps
all of it. -/
def Obligations.EveryStepKeepsTheInvariant : Prop := ∀ s t : State, Inv s → step s = .next t → Inv t

/-- R18, R24: every sequence of events (steps, ticks, host writes and reads, resets) keeps the invariant. -/
def Obligations.EveryRunKeepsTheInvariant : Prop := ∀ (es : List Event) (s : State), Inv s → Inv (runEvents es s)

/-- R47 (D17, log entry 13): under the stack invariant a step that fetches inside memory never raises AccessViolation. -/
def Obligations.NoAccessViolationFromAGoodStack : Prop :=
  ∀ s : State, stackOk s → s.pc.toNat ≤ 0x0FFE → ∀ a, step s ≠ .fault (.accessViolation a)

/-- R15, R142: no instruction reads or writes `DT` or `ST`: other timer values change nothing but themselves. -/
def Obligations.NoInstructionReadsOrWritesTheTimers : Prop :=
  ∀ (i : Instr) (s : State) (d e : Byte),
    exec i (s.setTimers d e) = mapNext (fun t => t.setTimers d e) (exec i s)

/-- R142: once both timers are zero, they are zero after every sequence of events, and `tick` then changes nothing: a timer at
zero stays there by the spec's decision D16 (R141, log entry 14). -/
def Obligations.ZeroTimersStayZero : Prop :=
  ∀ (es : List Event) (s : State), s.dt = 0x00 → s.st = 0x00 →
    (runEvents es s).dt = 0x00 ∧ (runEvents es s).st = 0x00 ∧ (runEvents es s).tick = runEvents es s

/-- R14: only LD I writes `I`, and only values below 0x1000; no instruction reads it. -/
def Obligations.OnlyLdIWritesTheAddressRegister : Prop :=
  (∀ (i : Instr) (s t : State), exec i s = .next t →
    (t.ireg = s.ireg ∨ ∃ nnn, i = .ldI nnn ∧ t.ireg.toNat = nnn.toNat) ∧
    (s.ireg.toNat < 0x1000 → t.ireg.toNat < 0x1000)) ∧
  (∀ (nnn : Addr) (s : State) (v : Word), exec (.ldI nnn) (s.setI v) = exec (.ldI nnn) s) ∧
  (∀ (i : Instr) (s : State) (v : Word), (∀ nnn, i ≠ .ldI nnn) →
    exec i (s.setI v) = mapNext (fun t => t.setI v) (exec i s))

/-- R40: a byte of memory changes only by CALL, at `sp` and `sp + 1`, or by CLS, in the display region. -/
def Obligations.OnlyCallAndClsWriteMemory : Prop :=
  ∀ (i : Instr) (s t : State) (a : Nat), exec i s = .next t → t.mem.read a ≠ s.mem.read a →
    (∃ nnn, i = .call nnn ∧ (a = s.sp.toNat ∨ a = s.sp.toNat + 1)) ∨
    (∃ ign, i = .cls ign ∧ 0x0F00 ≤ a ∧ a ≤ 0x0FFF)

/-- R10, R13: a general register changes only as the destination, or as `VF` by ADD, SUB, SHR or SUBN, which write the number
of R13's table, unless `VF` is their destination. -/
def Obligations.RegistersChangeOnlyAsDestinationOrFlag : Prop :=
  ∀ (i : Instr) (s t : State), exec i s = .next t →
    (∀ r, t.getV r ≠ s.getV r → destReg i = some r ∨ (r = 0xF#4 ∧ (flagWritten s i).isSome)) ∧
    (∀ v, flagWritten s i = some v → destReg i ≠ some 0xF#4 → (t.getV 0xF#4).toNat = v ∧ v ≤ 1)

/-- R17: the new `pc` of every instruction, without wrap-around, and the largest value other than by RET (D10 and D25, log
entries 3 and 16). -/
def Obligations.PcFollowsTheTableOfTheSpec : Prop :=
  ∀ (i : Instr) (s t : State), s.pc.toNat ≤ 0x0FFE → exec i s = .next t →
    t.pc.toNat = pcAfter s i ∧ ((∀ ign, i ≠ .ret ign) → t.pc.toNat ≤ 0x10FE)

/-- R89: a CALL, any balanced sequence of instructions nested to any depth, and the matching RET restore `pc` to the
instruction after the CALL (the spec's decision D3, log entry 7) and `sp` to its value before it. Bodies with a CLS and a CALL
at 0x0FFD are not in it: `NestedCallReturnWithCls` has them. -/
def Obligations.BalancedCallReturnRestoresPcAndSp : Prop :=
  ∀ (body : List Instr) (nnn : Addr) (ign : BitVec 4) (s t : State), Balanced body → stackOk s → s.pc.toNat ≤ 0x0FFC →
    execAll (.call nnn :: (body ++ [.ret ign])) s = .next t → t.pc = s.pc + 2 ∧ t.sp = s.sp

/-- R48, R165 (the spec's decision D15, log entry 19): after CLS, a RET of a frame at 0x0F00 or above goes to 0x0000; a frame below is untouched. -/
def Obligations.ClsDestroysTheDeepFramesOnly : Prop :=
  ∀ (g h : BitVec 4) (s : State), stackOk s → 0x0EA0 < s.sp.toNat →
    ∃ t u, exec (.cls g) s = .next t ∧ exec (.ret h) t = .next u ∧ u.sp.toNat = s.sp.toNat - 2 ∧
      u.pc.toNat = if 0x0F00 < s.sp.toNat then 0x0000 else s.wordAt (s.sp.toNat - 2)

/-- R26: no instruction but RND samples the random source. -/
def Obligations.OnlyRndSamplesTheRandomSource : Prop :=
  ∀ (i : Instr) (s : State) (n : Nat), (∀ x kk, i ≠ .rnd x kk) →
    exec i (s.setDraws n) = mapNext (fun t => t.setDraws n) (exec i s)

/-- The parameters (log entries 2 and 3) are the same after every sequence of events. -/
def Obligations.ParametersNeverChange : Prop := ∀ (es : List Event) (s : State), (runEvents es s).cfg = s.cfg

/-! ## Reset and the events of the host. -/

/-- R22: the values after reset that the spec gives, `sp` by its decision D2 (log entry 23). -/
def Obligations.ResetLeavesTheValuesOfTheSpec : Prop :=
  (∀ a, State.reset.mem.read a = 0x00) ∧ (∀ r, State.reset.getV r = 0x00) ∧ State.reset.ireg = 0x0000 ∧
    State.reset.dt = 0x00 ∧ State.reset.st = 0x00 ∧ State.reset.pc = 0x0200 ∧ State.reset.sp = 0x0EA0

/-- R160: the reset event gives the same values from every state (`sp` by D2, log entry 23). -/
def Obligations.ResetEventClearsEveryState : Prop :=
  ∀ s : State, let t := (applyEvent s .reset).1
    (∀ a, t.mem.read a = 0x00) ∧ (∀ r, t.getV r = 0x00) ∧ t.ireg = 0x0000 ∧ t.dt = 0x00 ∧ t.st = 0x00 ∧
      t.pc = 0x0200 ∧ t.sp = 0x0EA0

/-- R141: each timer goes down by one and stays at zero (the subtraction of numbers stops at 0; the spec's decision D16, log
entry 14); nothing else changes, and there is no output. -/
def Obligations.TickLowersEachTimerTowardZero : Prop :=
  ∀ s : State, ∃ t, applyEvent s .tick = (t, .none) ∧
    t.dt.toNat = s.dt.toNat - 1 ∧ t.st.toNat = s.st.toNat - 1 ∧
    sameRegs noReg s t ∧ sameMem s t ∧ t.ireg = s.ireg ∧ t.pc = s.pc ∧ t.sp = s.sp ∧ sameModel s t

/-- R24, R49: a host read gives the most recent write to that byte. -/
def Obligations.HostReadReturnsTheLatestWrite : Prop :=
  ∀ (s : State) (a c : Addr) (b : Byte),
    applyEvent (applyEvent s (.hostWrite a b)).1 (.hostRead c) =
      ((applyEvent s (.hostWrite a b)).1, .byte (if a = c then b else s.mem.read c.toNat))

/-- R161, R43, R52: two host writes of a word's bytes at `pc`, high byte first, give the state `withFetchWord` gives, and the
next step runs the instruction the word decodes to. -/
def Obligations.LoadedWordRunsInTheNextStep : Prop :=
  ∀ (s : State) (w : Word) (i : Instr), s.pc.toNat ≤ 0x0FFE → decodeWord w = .ok i →
    runEvents [.hostWrite (s.pc.setWidth 12) (hiByte w), .hostWrite (s.pc.setWidth 12 + 1) (loByte w)] s =
      s.withFetchWord 16 w.toNat ∧
    decodeTableWord 16 w.toNat = some i ∧
    step (s.withFetchWord 16 w.toNat) = exec i (s.withFetchWord 16 w.toNat).beginStep

/-- R120: the one clear of the model is the loop of 256 writes of the rule, on every memory. -/
def Obligations.ClearIsTheLoopOfTheRule : Prop :=
  ∀ m : Memory, m.zeroRange displayStart displayBytes =
    (List.range 256).foldl (fun (acc : Memory) k => acc.write (0x0F00 + k) 0x00) m

/-- R144: the pixel at column `c`, row `r` is one bit of the byte at `0x0F00 + 8*r + c/8`, and every bit of the display is
exactly one pixel, whichever end of a byte is leftmost (log entry 20). -/
def Obligations.PixelsAreTheBitsOfTheDisplay : Prop :=
  (∀ (s : State) (c : Fin 64) (r : Fin 32),
    s.pixelLit c r = (s.mem.read (0x0F00 + 8 * r.val + c.val / 8)).getLsbD (pixelBit c)) ∧
  (∀ (k : Fin 256) (b : Nat), b < 8 →
    ∃ c r, (pixelByte c r = k ∧ pixelBit c = b) ∧ ∀ c' r', pixelByte c' r' = k → pixelBit c' = b → c' = c ∧ r' = r)

/-! Nested calls with CLS, and the mark of a failed run. -/

/-- R89, R48, R165, R82: as `BalancedCallReturnRestoresPcAndSp`, for a body balanced but for any number of CLS anywhere in it,
when the frame of the outer CALL lies below 0x0F00 or the body has no CLS, and for every `pc` up to 0x0FFD, whose `pc + 2` still
has 12 bits (the spec's decisions D3 and D15, log entries 7 and 19). -/
def Obligations.NestedCallReturnWithCls : Prop :=
  ∀ (body : List Instr) (nnn : Addr) (ign : BitVec 4) (s t : State), Balanced (body.filter (fun i => !isCls i)) →
    (s.sp.toNat ≤ 0x0EFE ∨ body.all (fun i => !isCls i) = true) → stackOk s → s.pc.toNat ≤ 0x0FFD →
    execAll (.call nnn :: (body ++ [.ret ign])) s = .next t → t.pc = s.pc + 2 ∧ t.sp = s.sp

/-- R136, R169 (U7, D13, log entry 33): the mark of a failed run is set after a sequence of events exactly when it was set before
or some step among them ended in an error; a run in which one did never ends in a final state, whatever follows, a reset among
it; and no instruction reads or writes the mark. -/
def Obligations.FailedRunIsNeverFinal : Prop :=
  (∀ (es : List Event) (s : State), failedEnd (runEvents es s) ↔
    failedEnd s ∨ ∃ before after f, es = before ++ .step :: after ∧ step (runEvents before s) = .fault f) ∧
  (∀ (before after : List Event) (s : State) (f : Fault), step (runEvents before s) = .fault f →
    ¬ finalEnd (runEvents (before ++ .step :: after) s)) ∧
  (∀ (i : Instr) (s : State) (v : Bool), exec i (s.setFailed v) = mapNext (fun t => t.setFailed v) (exec i s))
end

