-- ==== Sys2Proof/Laws/Decode.lean ====
section
/-! SUPPORT. The fields of a word as numbers, the fields of a word built from its parts, and the handler table's lookup. -/

namespace Sys2Proof

open Sys2Proof.Machine

/-- Concatenation as arithmetic. -/
theorem toNat_append_eq {m n : Nat} (a : BitVec m) (b : BitVec n) : (a ++ b).toNat = a.toNat * 2 ^ n + b.toNat := by
  rw [BitVec.toNat_append, ← Nat.shiftLeft_add_eq_or_of_lt b.isLt, Nat.shiftLeft_eq]

/-! Fields as numbers (R61). -/

theorem fieldFam_toNat (w : Word) : (fieldFam w).toNat = w.toNat / 4096 := by
  have := w.isLt
  simp only [fieldFam, BitVec.extractLsb'_toNat, Nat.shiftRight_eq_div_pow]; omega

theorem fieldX_toNat (w : Word) : (fieldX w).toNat = w.toNat / 256 % 16 := by
  simp only [fieldX, BitVec.extractLsb'_toNat, Nat.shiftRight_eq_div_pow]

theorem fieldY_toNat (w : Word) : (fieldY w).toNat = w.toNat / 16 % 16 := by
  simp only [fieldY, BitVec.extractLsb'_toNat, Nat.shiftRight_eq_div_pow]

theorem fieldN_toNat (w : Word) : (fieldN w).toNat = w.toNat % 16 := by
  simp only [fieldN, BitVec.extractLsb'_toNat, Nat.shiftRight_eq_div_pow]; omega

theorem fieldKk_toNat (w : Word) : (fieldKk w).toNat = w.toNat % 256 := by
  simp only [fieldKk, BitVec.extractLsb'_toNat, Nat.shiftRight_eq_div_pow]; omega

theorem fieldNnn_toNat (w : Word) : (fieldNnn w).toNat = w.toNat % 4096 := by
  simp only [fieldNnn, BitVec.extractLsb'_toNat, Nat.shiftRight_eq_div_pow]; omega

theorem hiByte_toNat (w : Word) : (hiByte w).toNat = w.toNat / 256 := by
  have := w.isLt
  simp only [hiByte, BitVec.extractLsb'_toNat, Nat.shiftRight_eq_div_pow]; omega

theorem loByte_toNat (w : Word) : (loByte w).toNat = w.toNat % 256 := by
  simp only [loByte, BitVec.extractLsb'_toNat, Nat.shiftRight_eq_div_pow]; omega

theorem joinBytes_toNat (hi lo : Byte) : (joinBytes hi lo).toNat = 256 * hi.toNat + lo.toNat := by
  simp only [joinBytes, toNat_append_eq]; omega

/-- A word is its two bytes, high byte first (R43). -/
@[simp] theorem joinBytes_hiByte_loByte (w : Word) : joinBytes (hiByte w) (loByte w) = w := by
  apply BitVec.eq_of_toNat_eq
  rw [joinBytes_toNat, hiByte_toNat, loByte_toNat]; omega

@[simp] theorem hiByte_joinBytes (hi lo : Byte) : hiByte (joinBytes hi lo) = hi := by
  apply BitVec.eq_of_toNat_eq
  rw [hiByte_toNat, joinBytes_toNat]; omega

@[simp] theorem loByte_joinBytes (hi lo : Byte) : loByte (joinBytes hi lo) = lo := by
  apply BitVec.eq_of_toNat_eq
  rw [loByte_toNat, joinBytes_toNat]; omega

/-! Fields of a word built from four nibbles, from two nibbles and a byte, and from a nibble and an address. -/

section Nibbles

variable (f x y n : BitVec 4)

@[simp] theorem fieldFam_nibbles : fieldFam (f ++ x ++ y ++ n) = f := by
  apply BitVec.eq_of_toNat_eq; simp only [fieldFam_toNat, toNat_append_eq]; omega

@[simp] theorem fieldX_nibbles : fieldX (f ++ x ++ y ++ n) = x := by
  apply BitVec.eq_of_toNat_eq; simp only [fieldX_toNat, toNat_append_eq]; omega

@[simp] theorem fieldY_nibbles : fieldY (f ++ x ++ y ++ n) = y := by
  apply BitVec.eq_of_toNat_eq; simp only [fieldY_toNat, toNat_append_eq]; omega

@[simp] theorem fieldN_nibbles : fieldN (f ++ x ++ y ++ n) = n := by
  apply BitVec.eq_of_toNat_eq; simp only [fieldN_toNat, toNat_append_eq]; omega

end Nibbles

section NibblesByte

variable (f x : BitVec 4) (kk : Byte)

@[simp] theorem fieldFam_imm : fieldFam (f ++ x ++ kk) = f := by
  apply BitVec.eq_of_toNat_eq; simp only [fieldFam_toNat, toNat_append_eq]; omega

@[simp] theorem fieldX_imm : fieldX (f ++ x ++ kk) = x := by
  apply BitVec.eq_of_toNat_eq; simp only [fieldX_toNat, toNat_append_eq]; omega

@[simp] theorem fieldKk_imm : fieldKk (f ++ x ++ kk) = kk := by
  apply BitVec.eq_of_toNat_eq; simp only [fieldKk_toNat, toNat_append_eq]; omega

end NibblesByte

section NibbleAddress

variable (f : BitVec 4) (nnn : Addr)

@[simp] theorem fieldFam_addr : fieldFam (f ++ nnn) = f := by
  apply BitVec.eq_of_toNat_eq; simp only [fieldFam_toNat, toNat_append_eq]; omega

@[simp] theorem fieldNnn_addr : fieldNnn (f ++ nnn) = nnn := by
  apply BitVec.eq_of_toNat_eq; simp only [fieldNnn_toNat, toNat_append_eq]; omega

end NibbleAddress

/-! The key (R63) by family. -/

theorem dispatchKey_family0 {w : Word} (h : fieldFam w = 0x0#4) : dispatchKey w = (fieldKk w).setWidth 16 := by
  simp [dispatchKey, h]

theorem dispatchKey_family8 {w : Word} (h : fieldFam w = 0x8#4) :
    dispatchKey w = 0x8000#16 ||| (fieldN w).setWidth 16 := by
  simp [dispatchKey, h]

theorem dispatchKey_other {w : Word} (h0 : fieldFam w ≠ 0x0#4) (h8 : fieldFam w ≠ 0x8#4) :
    dispatchKey w = (fieldFam w).setWidth 16 <<< 12 := by
  simp [dispatchKey, h0, h8]

/-- The key as a number (R63): the low byte for family 0, `0x8000` and the low nibble for family 8, the leading nibble in
place otherwise. -/
theorem dispatchKey_toNat (w : Word) :
    (dispatchKey w).toNat =
      if w.toNat / 4096 = 0 then w.toNat % 256
      else if w.toNat / 4096 = 8 then 0x8000 + w.toNat % 16
      else w.toNat / 4096 * 4096 := by
  have hw := w.isLt
  have hf := fieldFam_toNat w
  have family0 : fieldFam w = 0x0#4 ↔ w.toNat / 4096 = 0 := by rw [← hf]; exact BitVec.toNat_inj.symm
  have family8 : fieldFam w = 0x8#4 ↔ w.toNat / 4096 = 8 := by rw [← hf]; exact BitVec.toNat_inj.symm
  by_cases h0 : fieldFam w = 0x0#4
  · rw [if_pos (family0.mp h0), dispatchKey_family0 h0, BitVec.toNat_setWidth, fieldKk_toNat]; omega
  · rw [if_neg (fun h => h0 (family0.mpr h))]
    by_cases h8 : fieldFam w = 0x8#4
    · have hor := Nat.shiftLeft_add_eq_or_of_lt (show w.toNat % 16 < 2 ^ 4 by omega) 0x800
      rw [if_pos (family8.mp h8), dispatchKey_family8 h8, BitVec.toNat_or, BitVec.toNat_setWidth, fieldN_toNat,
        Nat.mod_eq_of_lt (show w.toNat % 16 < 2 ^ 16 by omega)]
      norm_num [Nat.shiftLeft_eq] at hor ⊢
      omega
    · rw [if_neg (fun h => h8 (family8.mpr h)), dispatchKey_other h0 h8, BitVec.toNat_shiftLeft,
        BitVec.toNat_setWidth, hf, Nat.shiftLeft_eq]
      omega

/-- A registered key decodes to its row's instruction. -/
theorem decodeWord_of_find {w : Word} {r : Row} (h : handlerTable.find? (fun r => r.key == dispatchKey w) = some r) :
    decodeWord w = .ok (r.build w) := by
  simp [decodeWord, h]

/-- The decoder over bytes is the decoder over the word they make. -/
theorem decode_pair (hi lo : Byte) (rest : List Byte) :
    decode (hi :: lo :: rest) = (decodeWord (joinBytes hi lo)).map (fun i => (i, rest)) := by
  simp only [decode]
  cases decodeWord (joinBytes hi lo) <;> rfl

/-- On a 16-bit row, the table's numbering is the word itself. -/
theorem decodeTableWord_sixteen (w : Word) : decodeTableWord 16 w.toNat = (decodeWord w).toOption := by
  have hw : tableWord 16 w.toNat = w := by
    apply BitVec.eq_of_toNat_eq
    simpa [tableWord] using w.isLt
  simp only [decodeTableWord, hw, decode_pair, joinBytes_hiByte_loByte]
  cases decodeWord w <;> rfl

end Sys2Proof
end

