-- ==== Sys2Proof/Laws/State.lean ====
section
/-! SUPPORT. One lemma per field per update of `State`, and the register file. -/

namespace Sys2Proof.Machine

@[simp] theorem State.setMem_mem (s : State) (m : Memory) : (s.setMem m).mem = m := rfl
@[simp] theorem State.setMem_regs (s : State) (m : Memory) : (s.setMem m).regs = s.regs := rfl
@[simp] theorem State.setMem_ireg (s : State) (m : Memory) : (s.setMem m).ireg = s.ireg := rfl
@[simp] theorem State.setMem_dt (s : State) (m : Memory) : (s.setMem m).dt = s.dt := rfl
@[simp] theorem State.setMem_st (s : State) (m : Memory) : (s.setMem m).st = s.st := rfl
@[simp] theorem State.setMem_pc (s : State) (m : Memory) : (s.setMem m).pc = s.pc := rfl
@[simp] theorem State.setMem_sp (s : State) (m : Memory) : (s.setMem m).sp = s.sp := rfl
@[simp] theorem State.setMem_cfg (s : State) (m : Memory) : (s.setMem m).cfg = s.cfg := rfl
@[simp] theorem State.setMem_status (s : State) (m : Memory) : (s.setMem m).status = s.status := rfl
@[simp] theorem State.setMem_unimplSeen (s : State) (m : Memory) : (s.setMem m).unimplSeen = s.unimplSeen := rfl
@[simp] theorem State.setMem_draws (s : State) (m : Memory) : (s.setMem m).draws = s.draws := rfl
@[simp] theorem State.setMem_failed (s : State) (m : Memory) : (s.setMem m).failed = s.failed := rfl

@[simp] theorem State.setRegs_mem (s : State) (r : Vector Byte 16) : (s.setRegs r).mem = s.mem := rfl
@[simp] theorem State.setRegs_regs (s : State) (r : Vector Byte 16) : (s.setRegs r).regs = r := rfl
@[simp] theorem State.setRegs_ireg (s : State) (r : Vector Byte 16) : (s.setRegs r).ireg = s.ireg := rfl
@[simp] theorem State.setRegs_dt (s : State) (r : Vector Byte 16) : (s.setRegs r).dt = s.dt := rfl
@[simp] theorem State.setRegs_st (s : State) (r : Vector Byte 16) : (s.setRegs r).st = s.st := rfl
@[simp] theorem State.setRegs_pc (s : State) (r : Vector Byte 16) : (s.setRegs r).pc = s.pc := rfl
@[simp] theorem State.setRegs_sp (s : State) (r : Vector Byte 16) : (s.setRegs r).sp = s.sp := rfl
@[simp] theorem State.setRegs_cfg (s : State) (r : Vector Byte 16) : (s.setRegs r).cfg = s.cfg := rfl
@[simp] theorem State.setRegs_status (s : State) (r : Vector Byte 16) : (s.setRegs r).status = s.status := rfl
@[simp] theorem State.setRegs_unimplSeen (s : State) (r : Vector Byte 16) : (s.setRegs r).unimplSeen = s.unimplSeen := rfl
@[simp] theorem State.setRegs_draws (s : State) (r : Vector Byte 16) : (s.setRegs r).draws = s.draws := rfl
@[simp] theorem State.setRegs_failed (s : State) (r : Vector Byte 16) : (s.setRegs r).failed = s.failed := rfl

@[simp] theorem State.setI_mem (s : State) (v : Word) : (s.setI v).mem = s.mem := rfl
@[simp] theorem State.setI_regs (s : State) (v : Word) : (s.setI v).regs = s.regs := rfl
@[simp] theorem State.setI_ireg (s : State) (v : Word) : (s.setI v).ireg = v := rfl
@[simp] theorem State.setI_dt (s : State) (v : Word) : (s.setI v).dt = s.dt := rfl
@[simp] theorem State.setI_st (s : State) (v : Word) : (s.setI v).st = s.st := rfl
@[simp] theorem State.setI_pc (s : State) (v : Word) : (s.setI v).pc = s.pc := rfl
@[simp] theorem State.setI_sp (s : State) (v : Word) : (s.setI v).sp = s.sp := rfl
@[simp] theorem State.setI_cfg (s : State) (v : Word) : (s.setI v).cfg = s.cfg := rfl
@[simp] theorem State.setI_status (s : State) (v : Word) : (s.setI v).status = s.status := rfl
@[simp] theorem State.setI_unimplSeen (s : State) (v : Word) : (s.setI v).unimplSeen = s.unimplSeen := rfl
@[simp] theorem State.setI_draws (s : State) (v : Word) : (s.setI v).draws = s.draws := rfl
@[simp] theorem State.setI_failed (s : State) (v : Word) : (s.setI v).failed = s.failed := rfl

@[simp] theorem State.setTimers_mem (s : State) (d t : Byte) : (s.setTimers d t).mem = s.mem := rfl
@[simp] theorem State.setTimers_regs (s : State) (d t : Byte) : (s.setTimers d t).regs = s.regs := rfl
@[simp] theorem State.setTimers_ireg (s : State) (d t : Byte) : (s.setTimers d t).ireg = s.ireg := rfl
@[simp] theorem State.setTimers_dt (s : State) (d t : Byte) : (s.setTimers d t).dt = d := rfl
@[simp] theorem State.setTimers_st (s : State) (d t : Byte) : (s.setTimers d t).st = t := rfl
@[simp] theorem State.setTimers_pc (s : State) (d t : Byte) : (s.setTimers d t).pc = s.pc := rfl
@[simp] theorem State.setTimers_sp (s : State) (d t : Byte) : (s.setTimers d t).sp = s.sp := rfl
@[simp] theorem State.setTimers_cfg (s : State) (d t : Byte) : (s.setTimers d t).cfg = s.cfg := rfl
@[simp] theorem State.setTimers_status (s : State) (d t : Byte) : (s.setTimers d t).status = s.status := rfl
@[simp] theorem State.setTimers_unimplSeen (s : State) (d t : Byte) : (s.setTimers d t).unimplSeen = s.unimplSeen := rfl
@[simp] theorem State.setTimers_draws (s : State) (d t : Byte) : (s.setTimers d t).draws = s.draws := rfl
@[simp] theorem State.setTimers_failed (s : State) (d t : Byte) : (s.setTimers d t).failed = s.failed := rfl

@[simp] theorem State.setPc_mem (s : State) (v : Word) : (s.setPc v).mem = s.mem := rfl
@[simp] theorem State.setPc_regs (s : State) (v : Word) : (s.setPc v).regs = s.regs := rfl
@[simp] theorem State.setPc_ireg (s : State) (v : Word) : (s.setPc v).ireg = s.ireg := rfl
@[simp] theorem State.setPc_dt (s : State) (v : Word) : (s.setPc v).dt = s.dt := rfl
@[simp] theorem State.setPc_st (s : State) (v : Word) : (s.setPc v).st = s.st := rfl
@[simp] theorem State.setPc_pc (s : State) (v : Word) : (s.setPc v).pc = v := rfl
@[simp] theorem State.setPc_sp (s : State) (v : Word) : (s.setPc v).sp = s.sp := rfl
@[simp] theorem State.setPc_cfg (s : State) (v : Word) : (s.setPc v).cfg = s.cfg := rfl
@[simp] theorem State.setPc_status (s : State) (v : Word) : (s.setPc v).status = s.status := rfl
@[simp] theorem State.setPc_unimplSeen (s : State) (v : Word) : (s.setPc v).unimplSeen = s.unimplSeen := rfl
@[simp] theorem State.setPc_draws (s : State) (v : Word) : (s.setPc v).draws = s.draws := rfl
@[simp] theorem State.setPc_failed (s : State) (v : Word) : (s.setPc v).failed = s.failed := rfl

@[simp] theorem State.setSp_mem (s : State) (v : Word) : (s.setSp v).mem = s.mem := rfl
@[simp] theorem State.setSp_regs (s : State) (v : Word) : (s.setSp v).regs = s.regs := rfl
@[simp] theorem State.setSp_ireg (s : State) (v : Word) : (s.setSp v).ireg = s.ireg := rfl
@[simp] theorem State.setSp_dt (s : State) (v : Word) : (s.setSp v).dt = s.dt := rfl
@[simp] theorem State.setSp_st (s : State) (v : Word) : (s.setSp v).st = s.st := rfl
@[simp] theorem State.setSp_pc (s : State) (v : Word) : (s.setSp v).pc = s.pc := rfl
@[simp] theorem State.setSp_sp (s : State) (v : Word) : (s.setSp v).sp = v := rfl
@[simp] theorem State.setSp_cfg (s : State) (v : Word) : (s.setSp v).cfg = s.cfg := rfl
@[simp] theorem State.setSp_status (s : State) (v : Word) : (s.setSp v).status = s.status := rfl
@[simp] theorem State.setSp_unimplSeen (s : State) (v : Word) : (s.setSp v).unimplSeen = s.unimplSeen := rfl
@[simp] theorem State.setSp_draws (s : State) (v : Word) : (s.setSp v).draws = s.draws := rfl
@[simp] theorem State.setSp_failed (s : State) (v : Word) : (s.setSp v).failed = s.failed := rfl

@[simp] theorem State.setStatus_mem (s : State) (v : Status) : (s.setStatus v).mem = s.mem := rfl
@[simp] theorem State.setStatus_regs (s : State) (v : Status) : (s.setStatus v).regs = s.regs := rfl
@[simp] theorem State.setStatus_ireg (s : State) (v : Status) : (s.setStatus v).ireg = s.ireg := rfl
@[simp] theorem State.setStatus_dt (s : State) (v : Status) : (s.setStatus v).dt = s.dt := rfl
@[simp] theorem State.setStatus_st (s : State) (v : Status) : (s.setStatus v).st = s.st := rfl
@[simp] theorem State.setStatus_pc (s : State) (v : Status) : (s.setStatus v).pc = s.pc := rfl
@[simp] theorem State.setStatus_sp (s : State) (v : Status) : (s.setStatus v).sp = s.sp := rfl
@[simp] theorem State.setStatus_cfg (s : State) (v : Status) : (s.setStatus v).cfg = s.cfg := rfl
@[simp] theorem State.setStatus_status (s : State) (v : Status) : (s.setStatus v).status = v := rfl
@[simp] theorem State.setStatus_unimplSeen (s : State) (v : Status) : (s.setStatus v).unimplSeen = s.unimplSeen := rfl
@[simp] theorem State.setStatus_draws (s : State) (v : Status) : (s.setStatus v).draws = s.draws := rfl
@[simp] theorem State.setStatus_failed (s : State) (v : Status) : (s.setStatus v).failed = s.failed := rfl

@[simp] theorem State.setUnimplSeen_mem (s : State) (v : Bool) : (s.setUnimplSeen v).mem = s.mem := rfl
@[simp] theorem State.setUnimplSeen_regs (s : State) (v : Bool) : (s.setUnimplSeen v).regs = s.regs := rfl
@[simp] theorem State.setUnimplSeen_ireg (s : State) (v : Bool) : (s.setUnimplSeen v).ireg = s.ireg := rfl
@[simp] theorem State.setUnimplSeen_dt (s : State) (v : Bool) : (s.setUnimplSeen v).dt = s.dt := rfl
@[simp] theorem State.setUnimplSeen_st (s : State) (v : Bool) : (s.setUnimplSeen v).st = s.st := rfl
@[simp] theorem State.setUnimplSeen_pc (s : State) (v : Bool) : (s.setUnimplSeen v).pc = s.pc := rfl
@[simp] theorem State.setUnimplSeen_sp (s : State) (v : Bool) : (s.setUnimplSeen v).sp = s.sp := rfl
@[simp] theorem State.setUnimplSeen_cfg (s : State) (v : Bool) : (s.setUnimplSeen v).cfg = s.cfg := rfl
@[simp] theorem State.setUnimplSeen_status (s : State) (v : Bool) : (s.setUnimplSeen v).status = s.status := rfl
@[simp] theorem State.setUnimplSeen_unimplSeen (s : State) (v : Bool) : (s.setUnimplSeen v).unimplSeen = v := rfl
@[simp] theorem State.setUnimplSeen_draws (s : State) (v : Bool) : (s.setUnimplSeen v).draws = s.draws := rfl
@[simp] theorem State.setUnimplSeen_failed (s : State) (v : Bool) : (s.setUnimplSeen v).failed = s.failed := rfl

@[simp] theorem State.setDraws_mem (s : State) (n : Nat) : (s.setDraws n).mem = s.mem := rfl
@[simp] theorem State.setDraws_regs (s : State) (n : Nat) : (s.setDraws n).regs = s.regs := rfl
@[simp] theorem State.setDraws_ireg (s : State) (n : Nat) : (s.setDraws n).ireg = s.ireg := rfl
@[simp] theorem State.setDraws_dt (s : State) (n : Nat) : (s.setDraws n).dt = s.dt := rfl
@[simp] theorem State.setDraws_st (s : State) (n : Nat) : (s.setDraws n).st = s.st := rfl
@[simp] theorem State.setDraws_pc (s : State) (n : Nat) : (s.setDraws n).pc = s.pc := rfl
@[simp] theorem State.setDraws_sp (s : State) (n : Nat) : (s.setDraws n).sp = s.sp := rfl
@[simp] theorem State.setDraws_cfg (s : State) (n : Nat) : (s.setDraws n).cfg = s.cfg := rfl
@[simp] theorem State.setDraws_status (s : State) (n : Nat) : (s.setDraws n).status = s.status := rfl
@[simp] theorem State.setDraws_unimplSeen (s : State) (n : Nat) : (s.setDraws n).unimplSeen = s.unimplSeen := rfl
@[simp] theorem State.setDraws_draws (s : State) (n : Nat) : (s.setDraws n).draws = n := rfl
@[simp] theorem State.setDraws_failed (s : State) (n : Nat) : (s.setDraws n).failed = s.failed := rfl

@[simp] theorem State.setFailed_mem (s : State) (v : Bool) : (s.setFailed v).mem = s.mem := rfl
@[simp] theorem State.setFailed_regs (s : State) (v : Bool) : (s.setFailed v).regs = s.regs := rfl
@[simp] theorem State.setFailed_ireg (s : State) (v : Bool) : (s.setFailed v).ireg = s.ireg := rfl
@[simp] theorem State.setFailed_dt (s : State) (v : Bool) : (s.setFailed v).dt = s.dt := rfl
@[simp] theorem State.setFailed_st (s : State) (v : Bool) : (s.setFailed v).st = s.st := rfl
@[simp] theorem State.setFailed_pc (s : State) (v : Bool) : (s.setFailed v).pc = s.pc := rfl
@[simp] theorem State.setFailed_sp (s : State) (v : Bool) : (s.setFailed v).sp = s.sp := rfl
@[simp] theorem State.setFailed_cfg (s : State) (v : Bool) : (s.setFailed v).cfg = s.cfg := rfl
@[simp] theorem State.setFailed_status (s : State) (v : Bool) : (s.setFailed v).status = s.status := rfl
@[simp] theorem State.setFailed_unimplSeen (s : State) (v : Bool) : (s.setFailed v).unimplSeen = s.unimplSeen := rfl
@[simp] theorem State.setFailed_draws (s : State) (v : Bool) : (s.setFailed v).draws = s.draws := rfl
@[simp] theorem State.setFailed_failed (s : State) (v : Bool) : (s.setFailed v).failed = v := rfl

/-! The register file: `V[r]` after each update. -/

theorem State.getV_setV (s : State) (r q : Reg) (v : Byte) : (s.setV r v).getV q = if q = r then v else s.getV q := by
  unfold State.getV State.setV
  simp only [State.setRegs_regs, Vector.getElem_set, BitVec.toNat_inj, eq_comm]

@[simp] theorem State.getV_setV_self (s : State) (r : Reg) (v : Byte) : (s.setV r v).getV r = v := by
  simp [State.getV_setV]

theorem State.getV_setV_of_ne (s : State) {r q : Reg} (v : Byte) (h : q ≠ r) : (s.setV r v).getV q = s.getV q := by
  simp [State.getV_setV, h]

@[simp] theorem State.setMem_getV (s : State) (m : Memory) (r : Reg) : (s.setMem m).getV r = s.getV r := rfl
@[simp] theorem State.setI_getV (s : State) (v : Word) (r : Reg) : (s.setI v).getV r = s.getV r := rfl
@[simp] theorem State.setTimers_getV (s : State) (d t : Byte) (r : Reg) : (s.setTimers d t).getV r = s.getV r := rfl
@[simp] theorem State.setPc_getV (s : State) (v : Word) (r : Reg) : (s.setPc v).getV r = s.getV r := rfl
@[simp] theorem State.setSp_getV (s : State) (v : Word) (r : Reg) : (s.setSp v).getV r = s.getV r := rfl
@[simp] theorem State.setStatus_getV (s : State) (v : Status) (r : Reg) : (s.setStatus v).getV r = s.getV r := rfl
@[simp] theorem State.setUnimplSeen_getV (s : State) (v : Bool) (r : Reg) : (s.setUnimplSeen v).getV r = s.getV r := rfl
@[simp] theorem State.setDraws_getV (s : State) (n : Nat) (r : Reg) : (s.setDraws n).getV r = s.getV r := rfl
@[simp] theorem State.setFailed_getV (s : State) (v : Bool) (r : Reg) : (s.setFailed v).getV r = s.getV r := rfl

@[simp] theorem State.setV_mem (s : State) (r : Reg) (v : Byte) : (s.setV r v).mem = s.mem := rfl
@[simp] theorem State.setV_ireg (s : State) (r : Reg) (v : Byte) : (s.setV r v).ireg = s.ireg := rfl
@[simp] theorem State.setV_dt (s : State) (r : Reg) (v : Byte) : (s.setV r v).dt = s.dt := rfl
@[simp] theorem State.setV_st (s : State) (r : Reg) (v : Byte) : (s.setV r v).st = s.st := rfl
@[simp] theorem State.setV_pc (s : State) (r : Reg) (v : Byte) : (s.setV r v).pc = s.pc := rfl
@[simp] theorem State.setV_sp (s : State) (r : Reg) (v : Byte) : (s.setV r v).sp = s.sp := rfl
@[simp] theorem State.setV_cfg (s : State) (r : Reg) (v : Byte) : (s.setV r v).cfg = s.cfg := rfl
@[simp] theorem State.setV_status (s : State) (r : Reg) (v : Byte) : (s.setV r v).status = s.status := rfl
@[simp] theorem State.setV_unimplSeen (s : State) (r : Reg) (v : Byte) : (s.setV r v).unimplSeen = s.unimplSeen := rfl
@[simp] theorem State.setV_draws (s : State) (r : Reg) (v : Byte) : (s.setV r v).draws = s.draws := rfl
@[simp] theorem State.setV_failed (s : State) (r : Reg) (v : Byte) : (s.setV r v).failed = s.failed := rfl

/-! The derived updates of Ops.lean. -/

@[simp] theorem State.advance_mem (s : State) : (s.advance).mem = s.mem := rfl
@[simp] theorem State.advance_regs (s : State) : (s.advance).regs = s.regs := rfl
@[simp] theorem State.advance_ireg (s : State) : (s.advance).ireg = s.ireg := rfl
@[simp] theorem State.advance_dt (s : State) : (s.advance).dt = s.dt := rfl
@[simp] theorem State.advance_st (s : State) : (s.advance).st = s.st := rfl
@[simp] theorem State.advance_pc (s : State) : (s.advance).pc = s.pc + 2 := rfl
@[simp] theorem State.advance_sp (s : State) : (s.advance).sp = s.sp := rfl
@[simp] theorem State.advance_cfg (s : State) : (s.advance).cfg = s.cfg := rfl
@[simp] theorem State.advance_status (s : State) : (s.advance).status = s.status := rfl
@[simp] theorem State.advance_unimplSeen (s : State) : (s.advance).unimplSeen = s.unimplSeen := rfl
@[simp] theorem State.advance_draws (s : State) : (s.advance).draws = s.draws := rfl
@[simp] theorem State.advance_failed (s : State) : (s.advance).failed = s.failed := rfl
@[simp] theorem State.advance_getV (s : State) (r : Reg) : (s.advance).getV r = s.getV r := rfl

@[simp] theorem State.skipIf_mem (s : State) (c : Bool) : (s.skipIf c).mem = s.mem := rfl
@[simp] theorem State.skipIf_regs (s : State) (c : Bool) : (s.skipIf c).regs = s.regs := rfl
@[simp] theorem State.skipIf_ireg (s : State) (c : Bool) : (s.skipIf c).ireg = s.ireg := rfl
@[simp] theorem State.skipIf_dt (s : State) (c : Bool) : (s.skipIf c).dt = s.dt := rfl
@[simp] theorem State.skipIf_st (s : State) (c : Bool) : (s.skipIf c).st = s.st := rfl
@[simp] theorem State.skipIf_pc (s : State) (c : Bool) : (s.skipIf c).pc = if c then s.pc + 4 else s.pc + 2 := rfl
@[simp] theorem State.skipIf_sp (s : State) (c : Bool) : (s.skipIf c).sp = s.sp := rfl
@[simp] theorem State.skipIf_cfg (s : State) (c : Bool) : (s.skipIf c).cfg = s.cfg := rfl
@[simp] theorem State.skipIf_status (s : State) (c : Bool) : (s.skipIf c).status = s.status := rfl
@[simp] theorem State.skipIf_unimplSeen (s : State) (c : Bool) : (s.skipIf c).unimplSeen = s.unimplSeen := rfl
@[simp] theorem State.skipIf_draws (s : State) (c : Bool) : (s.skipIf c).draws = s.draws := rfl
@[simp] theorem State.skipIf_failed (s : State) (c : Bool) : (s.skipIf c).failed = s.failed := rfl
@[simp] theorem State.skipIf_getV (s : State) (c : Bool) (r : Reg) : (s.skipIf c).getV r = s.getV r := rfl

@[simp] theorem State.writeResult_mem (s : State) (x : Reg) (v : Byte) : (s.writeResult x v).mem = s.mem := rfl
@[simp] theorem State.writeResult_ireg (s : State) (x : Reg) (v : Byte) : (s.writeResult x v).ireg = s.ireg := rfl
@[simp] theorem State.writeResult_dt (s : State) (x : Reg) (v : Byte) : (s.writeResult x v).dt = s.dt := rfl
@[simp] theorem State.writeResult_st (s : State) (x : Reg) (v : Byte) : (s.writeResult x v).st = s.st := rfl
@[simp] theorem State.writeResult_pc (s : State) (x : Reg) (v : Byte) : (s.writeResult x v).pc = s.pc + 2 := rfl
@[simp] theorem State.writeResult_sp (s : State) (x : Reg) (v : Byte) : (s.writeResult x v).sp = s.sp := rfl
@[simp] theorem State.writeResult_cfg (s : State) (x : Reg) (v : Byte) : (s.writeResult x v).cfg = s.cfg := rfl
@[simp] theorem State.writeResult_status (s : State) (x : Reg) (v : Byte) : (s.writeResult x v).status = s.status := rfl
@[simp] theorem State.writeResult_unimplSeen (s : State) (x : Reg) (v : Byte) : (s.writeResult x v).unimplSeen = s.unimplSeen := rfl
@[simp] theorem State.writeResult_draws (s : State) (x : Reg) (v : Byte) : (s.writeResult x v).draws = s.draws := rfl
@[simp] theorem State.writeResult_failed (s : State) (x : Reg) (v : Byte) : (s.writeResult x v).failed = s.failed := rfl
@[simp] theorem State.writeResult_getV (s : State) (x r : Reg) (v : Byte) :
    (s.writeResult x v).getV r = if r = x then v else s.getV r := by
  simp [State.writeResult, State.getV_setV]

@[simp] theorem State.writeFlagged_mem (s : State) (x : Reg) (flag v : Byte) : (s.writeFlagged x flag v).mem = s.mem := rfl
@[simp] theorem State.writeFlagged_ireg (s : State) (x : Reg) (flag v : Byte) : (s.writeFlagged x flag v).ireg = s.ireg := rfl
@[simp] theorem State.writeFlagged_dt (s : State) (x : Reg) (flag v : Byte) : (s.writeFlagged x flag v).dt = s.dt := rfl
@[simp] theorem State.writeFlagged_st (s : State) (x : Reg) (flag v : Byte) : (s.writeFlagged x flag v).st = s.st := rfl
@[simp] theorem State.writeFlagged_pc (s : State) (x : Reg) (flag v : Byte) : (s.writeFlagged x flag v).pc = s.pc + 2 := rfl
@[simp] theorem State.writeFlagged_sp (s : State) (x : Reg) (flag v : Byte) : (s.writeFlagged x flag v).sp = s.sp := rfl
@[simp] theorem State.writeFlagged_cfg (s : State) (x : Reg) (flag v : Byte) : (s.writeFlagged x flag v).cfg = s.cfg := rfl
@[simp] theorem State.writeFlagged_status (s : State) (x : Reg) (flag v : Byte) : (s.writeFlagged x flag v).status = s.status := rfl
@[simp] theorem State.writeFlagged_unimplSeen (s : State) (x : Reg) (flag v : Byte) : (s.writeFlagged x flag v).unimplSeen = s.unimplSeen := rfl
@[simp] theorem State.writeFlagged_draws (s : State) (x : Reg) (flag v : Byte) : (s.writeFlagged x flag v).draws = s.draws := rfl
@[simp] theorem State.writeFlagged_failed (s : State) (x : Reg) (flag v : Byte) : (s.writeFlagged x flag v).failed = s.failed := rfl
@[simp] theorem State.writeFlagged_getV (s : State) (x r : Reg) (flag v : Byte) :
    (s.writeFlagged x flag v).getV r = if r = x then v else if r = flagReg then flag else s.getV r := by
  simp [State.writeFlagged, State.getV_setV]

@[simp] theorem State.beginStep_mem (s : State) : s.beginStep.mem = s.mem := rfl
@[simp] theorem State.beginStep_regs (s : State) : s.beginStep.regs = s.regs := rfl
@[simp] theorem State.beginStep_ireg (s : State) : s.beginStep.ireg = s.ireg := rfl
@[simp] theorem State.beginStep_dt (s : State) : s.beginStep.dt = s.dt := rfl
@[simp] theorem State.beginStep_st (s : State) : s.beginStep.st = s.st := rfl
@[simp] theorem State.beginStep_pc (s : State) : s.beginStep.pc = s.pc := rfl
@[simp] theorem State.beginStep_sp (s : State) : s.beginStep.sp = s.sp := rfl
@[simp] theorem State.beginStep_cfg (s : State) : s.beginStep.cfg = s.cfg := rfl
@[simp] theorem State.beginStep_status (s : State) : s.beginStep.status = .executed := rfl
@[simp] theorem State.beginStep_unimplSeen (s : State) : s.beginStep.unimplSeen = s.unimplSeen := rfl
@[simp] theorem State.beginStep_draws (s : State) : s.beginStep.draws = s.draws := rfl
@[simp] theorem State.beginStep_failed (s : State) : s.beginStep.failed = s.failed := rfl
@[simp] theorem State.beginStep_getV (s : State) (r : Reg) : s.beginStep.getV r = s.getV r := rfl

@[simp] theorem State.placeholder_mem (s : State) : s.placeholder.mem = s.mem := by
  unfold State.placeholder; cases s.cfg.unimplAdvancesPc <;> rfl
@[simp] theorem State.placeholder_regs (s : State) : s.placeholder.regs = s.regs := by
  unfold State.placeholder; cases s.cfg.unimplAdvancesPc <;> rfl
@[simp] theorem State.placeholder_ireg (s : State) : s.placeholder.ireg = s.ireg := by
  unfold State.placeholder; cases s.cfg.unimplAdvancesPc <;> rfl
@[simp] theorem State.placeholder_dt (s : State) : s.placeholder.dt = s.dt := by
  unfold State.placeholder; cases s.cfg.unimplAdvancesPc <;> rfl
@[simp] theorem State.placeholder_st (s : State) : s.placeholder.st = s.st := by
  unfold State.placeholder; cases s.cfg.unimplAdvancesPc <;> rfl
@[simp] theorem State.placeholder_pc (s : State) : s.placeholder.pc = if s.cfg.unimplAdvancesPc then s.pc + 2 else s.pc := by
  unfold State.placeholder; cases s.cfg.unimplAdvancesPc <;> rfl
@[simp] theorem State.placeholder_sp (s : State) : s.placeholder.sp = s.sp := by
  unfold State.placeholder; cases s.cfg.unimplAdvancesPc <;> rfl
@[simp] theorem State.placeholder_cfg (s : State) : s.placeholder.cfg = s.cfg := by
  unfold State.placeholder; cases s.cfg.unimplAdvancesPc <;> rfl
@[simp] theorem State.placeholder_status (s : State) : s.placeholder.status = .unimplemented := by
  unfold State.placeholder; cases s.cfg.unimplAdvancesPc <;> rfl
@[simp] theorem State.placeholder_unimplSeen (s : State) : s.placeholder.unimplSeen = true := by
  unfold State.placeholder; cases s.cfg.unimplAdvancesPc <;> rfl
@[simp] theorem State.placeholder_draws (s : State) : s.placeholder.draws = s.draws := by
  unfold State.placeholder; cases s.cfg.unimplAdvancesPc <;> rfl
@[simp] theorem State.placeholder_failed (s : State) : s.placeholder.failed = s.failed := by
  unfold State.placeholder; cases s.cfg.unimplAdvancesPc <;> rfl
@[simp] theorem State.placeholder_getV (s : State) (r : Reg) : s.placeholder.getV r = s.getV r := by
  unfold State.placeholder; cases s.cfg.unimplAdvancesPc <;> rfl

end Sys2Proof.Machine
end

