-- ==== Sys2Proof/Laws/Events.lean ====
section
/-! SUPPORT. What an event leaves, said once per event: the state and output of a step event by what `step` answers, and the mark
of a failed run after each other event. -/

namespace Sys2Proof.Machine

theorem stepEvent_of_next {s t : State} (h : step s = .next t) : s.stepEvent = (t, .stepped Option.none t.status) := by
  simp only [State.stepEvent, h]

theorem stepEvent_of_fault {s : State} {f : Fault} (h : step s = .fault f) :
    s.stepEvent = (s.setFailed true, .stepped (some f) .executed) := by
  simp only [State.stepEvent, h]

@[simp] theorem tick_failed (s : State) : s.tick.failed = s.failed := rfl
@[simp] theorem hostWrite_failed (s : State) (a : Addr) (b : Byte) : (s.hostWrite a b).failed = s.failed := rfl
@[simp] theorem resetEvent_failed (s : State) : s.resetEvent.failed = s.failed := rfl
@[simp] theorem resetEvent_cfg (s : State) : s.resetEvent.cfg = s.cfg := rfl
@[simp] theorem resetEvent_draws (s : State) : s.resetEvent.draws = s.draws := rfl

/-- A sequence of events in two parts. -/
theorem runEvents_append (before after : List Event) (s : State) :
    runEvents (before ++ after) s = runEvents after (runEvents before s) := by
  induction before generalizing s with
  | nil => rfl
  | cons e rest ih => exact ih _

end Sys2Proof.Machine
end

