-- ==== Sys2Proof/Laws/Memory.lean ====
section
/-! SUPPORT. The laws of memory: what a byte reads as after a write or a clear, and that both keep the canonical form. -/

namespace Sys2Proof.Machine

@[simp] theorem Memory.read_nil (a : Nat) : Memory.read [] a = 0x00 := rfl

theorem Memory.read_cons (k : Nat) (v : Byte) (m : Memory) (a : Nat) :
    Memory.read ((k, v) :: m) a = if k = a then v else Memory.read m a := rfl

/-- A kept cell reads as before; a dropped one reads as 0x00. -/
theorem Memory.read_filter (p : Nat → Bool) (m : Memory) (a : Nat) :
    Memory.read (m.filter (fun c => p c.1)) a = if p a then Memory.read m a else 0x00 := by
  induction m with
  | nil => simp
  | cons c m ih =>
    obtain ⟨k, v⟩ := c
    rw [List.filter_cons]
    by_cases hk : k = a
    · subst hk
      cases hp : p k <;> simp [Memory.read_cons, ih, hp]
    · cases hp : p k <;> simp [Memory.read_cons, ih, hk]

theorem Memory.read_insert_self (a : Nat) (b : Byte) (m : Memory) (h : ∀ c ∈ m, c.1 ≠ a) :
    Memory.read (Memory.insert a b m) a = b := by
  induction m with
  | nil => simp [Memory.insert, Memory.read_cons]
  | cons c m ih =>
    obtain ⟨k, v⟩ := c
    have hk : k ≠ a := h (k, v) (by simp)
    have ih := ih fun c hc => h c (by simp [hc])
    unfold Memory.insert
    split
    · simp [Memory.read_cons]
    · simp [Memory.read_cons, hk, ih]

theorem Memory.read_insert_other {a a' : Nat} (b : Byte) (m : Memory) (h : a ≠ a') :
    Memory.read (Memory.insert a b m) a' = Memory.read m a' := by
  induction m with
  | nil => simp [Memory.insert, Memory.read_cons, h]
  | cons c m ih =>
    obtain ⟨k, v⟩ := c
    unfold Memory.insert
    split <;> simp [Memory.read_cons, h, ih]

/-- The law of `mem[a] <- b`, for every memory, canonical or not. -/
@[simp] theorem Memory.read_write (m : Memory) (a a' : Nat) (b : Byte) :
    Memory.read (m.write a b) a' = if a = a' then b else Memory.read m a' := by
  have others : ∀ x, Memory.read (m.filter (fun c => c.1 != a)) x = if x = a then 0x00 else Memory.read m x := by
    intro x
    rw [Memory.read_filter (fun k => k != a)]
    by_cases hx : x = a <;> simp [hx]
  unfold Memory.write
  by_cases hb : b = Memory.unlisted
  · simp only [hb, if_true, others]
    by_cases ha : a = a' <;> simp [ha, Memory.unlisted, eq_comm]
  · simp only [hb, if_false]
    by_cases ha : a = a'
    · subst ha
      rw [if_pos rfl, Memory.read_insert_self]
      intro c hc
      simpa using (List.mem_filter.mp hc).2
    · rw [if_neg ha, Memory.read_insert_other _ _ ha, others, if_neg (Ne.symm ha)]

/-- The law of a clear, for every memory. -/
@[simp] theorem Memory.read_zeroRange (m : Memory) (lo n a : Nat) :
    Memory.read (m.zeroRange lo n) a = if lo ≤ a ∧ a < lo + n then 0x00 else Memory.read m a := by
  unfold Memory.zeroRange
  rw [Memory.read_filter (fun k => !(decide (lo ≤ k) && decide (k < lo + n)))]
  by_cases h : lo ≤ a ∧ a < lo + n
  · simp [h]
  · rw [if_neg h, if_pos]
    simp only [Bool.not_eq_true', Bool.and_eq_false_iff, decide_eq_false_iff_not]
    omega

theorem Memory.wf_nil : Memory.wf [] := by decide

theorem Memory.wf_filter {m : Memory} (p : Host.Cell → Bool) (h : m.wf) : Memory.wf (m.filter p) :=
  ⟨h.1.filter p, fun c hc => h.2 c (List.mem_of_mem_filter hc)⟩

theorem Memory.mem_insert {a : Nat} {b : Byte} {m : Memory} {c : Host.Cell} (h : c ∈ Memory.insert a b m) :
    c = (a, b) ∨ c ∈ m := by
  induction m with
  | nil => simpa [Memory.insert] using h
  | cons d m ih =>
    obtain ⟨k, v⟩ := d
    unfold Memory.insert at h
    split at h
    · simpa using h
    · rcases List.mem_cons.mp h with h | h
      · exact .inr (by simp [h])
      · exact (ih h).imp_right (List.mem_cons_of_mem _)

theorem Memory.wf_insert {a : Nat} {b : Byte} {m : Memory} (hm : m.wf) (ha : a < memSize) (hb : b ≠ Memory.unlisted)
    (h : ∀ c ∈ m, c.1 ≠ a) : Memory.wf (Memory.insert a b m) := by
  refine ⟨?_, fun c hc => (Memory.mem_insert hc).elim (fun e => e ▸ ⟨ha, hb⟩) (hm.2 c)⟩
  induction m with
  | nil => simp [Memory.insert]
  | cons d m ih =>
    obtain ⟨k, v⟩ := d
    obtain ⟨hlt, hrest⟩ := List.pairwise_cons.mp hm.1
    have hk : k ≠ a := h (k, v) (by simp)
    unfold Memory.insert
    split
    · rename_i hak
      refine List.pairwise_cons.mpr ⟨fun c hc => ?_, hm.1⟩
      rcases List.mem_cons.mp hc with rfl | hc
      · exact hak
      · exact hak.trans (hlt c hc)
    · rename_i hak
      refine List.pairwise_cons.mpr ⟨fun c hc => ?_, ih ⟨hrest, fun c hc => hm.2 c (by simp [hc])⟩ fun c hc => h c (by simp [hc])⟩
      rcases Memory.mem_insert hc with rfl | hc
      · exact lt_of_le_of_ne (not_lt.mp hak) hk
      · exact hlt c hc

/-- A write inside the address space keeps the canonical form. -/
theorem Memory.wf_write {m : Memory} (h : m.wf) {a : Nat} (ha : a < memSize) (b : Byte) : Memory.wf (m.write a b) := by
  unfold Memory.write
  split
  · exact Memory.wf_filter _ h
  · rename_i hb
    exact Memory.wf_insert (Memory.wf_filter _ h) ha hb fun c hc => by simpa using (List.mem_filter.mp hc).2

/-- A clear keeps the canonical form. -/
theorem Memory.wf_zeroRange {m : Memory} (h : m.wf) (lo n : Nat) : Memory.wf (m.zeroRange lo n) := Memory.wf_filter _ h

end Sys2Proof.Machine
end

