-- ==== Sys2Proof/Laws/Ops.lean ====
section
/-! SUPPORT. One lemma per shared operation that says everything it can do: the checked primitives, the stack region,
frames, the fetch, decoding in a step, placing a word. -/

namespace Sys2Proof.Machine

/-! The parameter `STACK_TOP` (R4): even, above `STACK_BOTTOM`, at most `STACK_BOTTOM + 0x100`. -/

@[simp] theorem stackBottom_toNat : stackBottom.toNat = 0x0EA0 := rfl

theorem stackTop_toNat (c : Config) : (stackTop c).toNat = 0x0EA0 + 2 * (c.topFrame.val + 1) := by
  have := c.topFrame.isLt
  simp only [stackTop, BitVec.toNat_add, stackBottom_toNat, BitVec.toNat_ofNat]; omega

theorem stackTop_bounds (c : Config) :
    0x0EA2 ≤ (stackTop c).toNat ∧ (stackTop c).toNat ≤ 0x0FA0 ∧ (stackTop c).toNat % 2 = 0 := by
  have := c.topFrame.isLt
  rw [stackTop_toNat]; omega

theorem memReadWord_eq (m : Memory) (a : Nat) :
    memReadWord m a = if a ≤ 0x0FFE then .ok (joinBytes (m.read a) (m.read (a + 1)))
      else .error (.accessViolation (if 0x0FFF < a then (a : Int) else 0x1000)) := by
  unfold memReadWord memSize
  split
  · rw [if_neg (by omega), if_pos (by omega)]
  · split
    · obtain rfl : a = 0x0FFF := by omega
      rfl
    · rw [if_pos (by omega)]

theorem memWriteWord_ok (m : Memory) {a : Nat} (v : Word) (h : a ≤ 0x0FFE) :
    memWriteWord m a v = .ok ((m.write a (hiByte v)).write (a + 1) (loByte v)) := by
  unfold memWriteWord memSize
  rw [if_neg (by omega), if_neg (by omega)]

/-! The stack region (R47). -/

theorem stackCheck_eq (c : Config) (addr : Int) :
    stackCheck c addr = if inStack c addr then .ok () else .error (.accessViolation addr) := by
  unfold stackCheck
  by_cases h : inStack c addr
  · rw [if_pos h, if_neg]
    simp only [stackBottom_toNat] at *; omega
  · rw [if_neg h, if_pos]
    simp only [stackBottom_toNat] at *; omega

theorem frameCheck_eq (c : Config) (addr : Int) :
    frameCheck c addr = if inStack c addr then
      (if inStack c (addr + 1) then .ok () else .error (.accessViolation (addr + 1)))
      else .error (.accessViolation addr) := by
  unfold frameCheck
  rw [stackCheck_eq, stackCheck_eq]
  by_cases h : inStack c addr
  · simp only [if_pos h]
  · simp only [if_neg h]

/-- An address that passes `StackCheck` with the one after it is far inside memory (R47). -/
theorem inStack_lt {c : Config} {addr : Int} (h : inStack c (addr + 1)) : addr ≤ 0x0F9E := by
  have := stackTop_bounds c; omega

/-- Everything a push can do (R82). -/
theorem pushFrame_eq (s : State) (r : Word) :
    pushFrame s r =
      if inStack s.cfg s.sp.toNat then
        (if inStack s.cfg (s.sp.toNat + 1) then
          .ok ((s.setMem ((s.mem.write s.sp.toNat (hiByte (frameWord r))).write (s.sp.toNat + 1)
            (loByte (frameWord r)))).setSp (s.sp + 2))
        else .error (.accessViolation (s.sp.toNat + 1)))
      else .error (.accessViolation s.sp.toNat) := by
  unfold pushFrame
  rw [frameCheck_eq]
  by_cases h : inStack s.cfg s.sp.toNat
  · by_cases h' : inStack s.cfg (s.sp.toNat + 1)
    · have := inStack_lt h'
      simp only [if_pos h, if_pos h', memWriteWord_ok s.mem (frameWord r) (show s.sp.toNat ≤ 0x0FFE by omega)]
    · simp only [if_pos h, if_neg h']
  · simp only [if_neg h]

/-- Everything a pop can do (R80). -/
theorem popFrame_eq (s : State) :
    popFrame s =
      if inStack s.cfg ((s.sp.toNat : Int) - 2) then
        (if inStack s.cfg ((s.sp.toNat : Int) - 1) then
          .ok (joinBytes (s.mem.read (s.sp.toNat - 2)) (s.mem.read (s.sp.toNat - 1)), s.setSp (s.sp - 2))
        else .error (.accessViolation ((s.sp.toNat : Int) - 1)))
      else .error (.accessViolation ((s.sp.toNat : Int) - 2)) := by
  unfold popFrame
  rw [frameCheck_eq, show (s.sp.toNat : Int) - 2 + 1 = s.sp.toNat - 1 by omega]
  by_cases h : inStack s.cfg ((s.sp.toNat : Int) - 2)
  · by_cases h' : inStack s.cfg ((s.sp.toNat : Int) - 1)
    · have := stackTop_bounds s.cfg
      have hlo : s.sp.toNat - 2 ≤ 0x0FFE := by omega
      have hsucc : s.sp.toNat - 2 + 1 = s.sp.toNat - 1 := by omega
      simp only [if_pos h, if_pos h', memReadWord_eq, if_pos hlo, hsucc]
    · simp only [if_pos h, if_neg h']
  · simp only [if_neg h]

/-! The bytes of a frame (R19). -/

theorem frameWord_toNat (r : Word) : (frameWord r).toNat = r.toNat % 4096 := by
  simp only [frameWord, BitVec.toNat_and]
  exact Nat.and_two_pow_sub_one_eq_mod r.toNat 12

/-! The fetch and the decoding of a step (R42, R68). -/

/-- Everything the fetch can do. -/
theorem fetch_eq (s : State) :
    s.fetch = if s.pc.toNat ≤ 0x0FFE then .ok (joinBytes (s.mem.read s.pc.toNat) (s.mem.read (s.pc.toNat + 1)))
      else .error (.accessViolation (if 0x0FFF < s.pc.toNat then (s.pc.toNat : Int) else 0x1000)) :=
  memReadWord_eq s.mem s.pc.toNat

theorem wordAt_eq (s : State) (a : Nat) : (joinBytes (s.mem.read a) (s.mem.read (a + 1))).toNat = s.wordAt a := by
  rw [joinBytes_toNat]; rfl

theorem decodeStep_ok_iff (s : State) (w : Word) (i : Instr) : decodeStep s w = .ok i ↔ decodeWord w = .ok i := by
  unfold decodeStep
  cases h : decodeWord w <;> simp

/-- The word placed is the word fetched. -/
theorem fetch_placeWord (s : State) (w : Word) (h : s.pc.toNat ≤ 0x0FFE) : (placeWord s w).fetch = .ok w := by
  have hlt : ¬ memSize ≤ s.pc.toNat + 1 := by simp only [memSize]; omega
  rw [fetch_eq]
  simp [placeWord, hlt, h]

end Sys2Proof.Machine
end

