-- ==== Sys2Proof/Laws/PerInstr.lean ====
section
/-! SUPPORT. Per-instruction laws: the word of an instruction selects the key that rule R64 registers for it. -/

namespace Sys2Proof.Laws.KeyOfEncoding

/-- The key that rule R64 registers for an instruction. -/
def registeredKey : Instr → Word
  | .cls _ => 0x00E0
  | .ret _ => 0x00EE
  | .jp _ => 0x1000
  | .call _ => 0x2000
  | .seImm _ _ => 0x3000
  | .sneImm _ _ => 0x4000
  | .seReg _ _ _ => 0x5000
  | .ldImm _ _ => 0x6000
  | .addImm _ _ => 0x7000
  | .ldReg _ _ => 0x8000
  | .orReg _ _ => 0x8001
  | .andReg _ _ => 0x8002
  | .xorReg _ _ => 0x8003
  | .addReg _ _ => 0x8004
  | .subReg _ _ => 0x8005
  | .shr _ _ => 0x8006
  | .subnReg _ _ => 0x8007
  | .sneReg _ _ _ => 0x9000
  | .ldI _ => 0xA000
  | .jpV0 _ => 0xB000
  | .rnd _ _ => 0xC000
  | .drw _ => 0xD000
  | .keyop _ => 0xE000
  | .misc _ => 0xF000

/-- The word of the instruction has the instruction's registered key. -/
def Statement (i : Instr) : Prop := dispatchKey (encode i) = registeredKey i

theorem cls (ign : BitVec 4) : Statement (.cls ign) := by simp [Statement, encode, registeredKey, dispatchKey]
theorem ret (ign : BitVec 4) : Statement (.ret ign) := by simp [Statement, encode, registeredKey, dispatchKey]
theorem jp (nnn : Addr) : Statement (.jp nnn) := by simp [Statement, encode, registeredKey, dispatchKey]
theorem call (nnn : Addr) : Statement (.call nnn) := by simp [Statement, encode, registeredKey, dispatchKey]
theorem seImm (x : Reg) (kk : Byte) : Statement (.seImm x kk) := by simp [Statement, encode, registeredKey, dispatchKey]
theorem sneImm (x : Reg) (kk : Byte) : Statement (.sneImm x kk) := by simp [Statement, encode, registeredKey, dispatchKey]
theorem seReg (x y : Reg) (ign : BitVec 4) : Statement (.seReg x y ign) := by
  simp [Statement, encode, registeredKey, dispatchKey]
theorem ldImm (x : Reg) (kk : Byte) : Statement (.ldImm x kk) := by simp [Statement, encode, registeredKey, dispatchKey]
theorem addImm (x : Reg) (kk : Byte) : Statement (.addImm x kk) := by simp [Statement, encode, registeredKey, dispatchKey]
theorem ldReg (x y : Reg) : Statement (.ldReg x y) := by simp [Statement, encode, registeredKey, dispatchKey]
theorem orReg (x y : Reg) : Statement (.orReg x y) := by simp [Statement, encode, registeredKey, dispatchKey]
theorem andReg (x y : Reg) : Statement (.andReg x y) := by simp [Statement, encode, registeredKey, dispatchKey]
theorem xorReg (x y : Reg) : Statement (.xorReg x y) := by simp [Statement, encode, registeredKey, dispatchKey]
theorem addReg (x y : Reg) : Statement (.addReg x y) := by simp [Statement, encode, registeredKey, dispatchKey]
theorem subReg (x y : Reg) : Statement (.subReg x y) := by simp [Statement, encode, registeredKey, dispatchKey]
theorem shr (x : Reg) (ign : BitVec 4) : Statement (.shr x ign) := by simp [Statement, encode, registeredKey, dispatchKey]
theorem subnReg (x y : Reg) : Statement (.subnReg x y) := by simp [Statement, encode, registeredKey, dispatchKey]
theorem sneReg (x y : Reg) (ign : BitVec 4) : Statement (.sneReg x y ign) := by
  simp [Statement, encode, registeredKey, dispatchKey]
theorem ldI (nnn : Addr) : Statement (.ldI nnn) := by simp [Statement, encode, registeredKey, dispatchKey]
theorem jpV0 (nnn : Addr) : Statement (.jpV0 nnn) := by simp [Statement, encode, registeredKey, dispatchKey]
theorem rnd (x : Reg) (kk : Byte) : Statement (.rnd x kk) := by simp [Statement, encode, registeredKey, dispatchKey]
theorem drw (ign : BitVec 12) : Statement (.drw ign) := by simp [Statement, encode, registeredKey, dispatchKey]
theorem keyop (ign : BitVec 12) : Statement (.keyop ign) := by simp [Statement, encode, registeredKey, dispatchKey]
theorem misc (ign : BitVec 12) : Statement (.misc ign) := by simp [Statement, encode, registeredKey, dispatchKey]

end Sys2Proof.Laws.KeyOfEncoding
end

