-- ==== Sys2Proof/Laws/Step.lean ====
section
/-! SUPPORT. What a meaning and a step can do, said once. -/

namespace Sys2Proof.Machine

/-! Everything CALL and RET can do: the only two handlers that can raise an error. -/

theorem exec_call (nnn : Addr) (s : State) : exec (.call nnn) s = execCall nnn s := rfl

theorem exec_ret (ign : BitVec 4) (s : State) : exec (.ret ign) s = execRet s := rfl

theorem execCall_eq (nnn : Addr) (s : State) :
    execCall nnn s =
      if s.sp = stackTop s.cfg then .fault (.stackOverflow s.pc s.sp)
      else if inStack s.cfg s.sp.toNat then
        (if inStack s.cfg (s.sp.toNat + 1) then
          .next (((s.setMem ((s.mem.write s.sp.toNat (hiByte (frameWord (s.pc + 2)))).write (s.sp.toNat + 1)
            (loByte (frameWord (s.pc + 2))))).setSp (s.sp + 2)).setPc (addrOperand nnn))
        else .fault (.accessViolation (s.sp.toNat + 1)))
      else .fault (.accessViolation s.sp.toNat) := by
  unfold execCall
  rw [pushFrame_eq]
  by_cases h : inStack s.cfg s.sp.toNat
  · by_cases h' : inStack s.cfg (s.sp.toNat + 1)
    · simp only [if_pos h, if_pos h']
    · simp only [if_pos h, if_neg h']
  · simp only [if_neg h]

theorem execRet_eq (s : State) :
    execRet s =
      if s.sp = stackBottom then .fault (.stackUnderflow s.pc s.sp)
      else if inStack s.cfg ((s.sp.toNat : Int) - 2) then
        (if inStack s.cfg ((s.sp.toNat : Int) - 1) then
          .next ((s.setSp (s.sp - 2)).setPc (joinBytes (s.mem.read (s.sp.toNat - 2)) (s.mem.read (s.sp.toNat - 1))))
        else .fault (.accessViolation ((s.sp.toNat : Int) - 1)))
      else .fault (.accessViolation ((s.sp.toNat : Int) - 2)) := by
  unfold execRet
  rw [popFrame_eq]
  by_cases h : inStack s.cfg ((s.sp.toNat : Int) - 2)
  · by_cases h' : inStack s.cfg ((s.sp.toNat : Int) - 1)
    · simp only [if_pos h, if_pos h']
    · simp only [if_pos h, if_neg h']
  · simp only [if_neg h]

/-- A CALL that completes: what it needed, and the state it leaves. -/
theorem execCall_next {nnn : Addr} {s t : State} (h : execCall nnn s = .next t) :
    s.sp ≠ stackTop s.cfg ∧ inStack s.cfg s.sp.toNat ∧ inStack s.cfg (s.sp.toNat + 1) ∧
      t = ((s.setMem ((s.mem.write s.sp.toNat (hiByte (frameWord (s.pc + 2)))).write (s.sp.toNat + 1)
        (loByte (frameWord (s.pc + 2))))).setSp (s.sp + 2)).setPc (addrOperand nnn) := by
  rw [execCall_eq] at h
  by_cases h0 : s.sp = stackTop s.cfg
  · rw [if_pos h0] at h; cases h
  by_cases h1 : inStack s.cfg s.sp.toNat
  · by_cases h2 : inStack s.cfg (s.sp.toNat + 1)
    · rw [if_neg h0, if_pos h1, if_pos h2] at h
      exact ⟨h0, h1, h2, (Host.Outcome.next.inj h).symm⟩
    · rw [if_neg h0, if_pos h1, if_neg h2] at h; cases h
  · rw [if_neg h0, if_neg h1] at h; cases h

/-- A RET that completes: what it needed, and the state it leaves. -/
theorem execRet_next {s t : State} (h : execRet s = .next t) :
    s.sp ≠ stackBottom ∧ inStack s.cfg ((s.sp.toNat : Int) - 2) ∧ inStack s.cfg ((s.sp.toNat : Int) - 1) ∧
      t = (s.setSp (s.sp - 2)).setPc (joinBytes (s.mem.read (s.sp.toNat - 2)) (s.mem.read (s.sp.toNat - 1))) := by
  rw [execRet_eq] at h
  by_cases h0 : s.sp = stackBottom
  · rw [if_pos h0] at h; cases h
  by_cases h1 : inStack s.cfg ((s.sp.toNat : Int) - 2)
  · by_cases h2 : inStack s.cfg ((s.sp.toNat : Int) - 1)
    · rw [if_neg h0, if_pos h1, if_pos h2] at h
      exact ⟨h0, h1, h2, (Host.Outcome.next.inj h).symm⟩
    · rw [if_neg h0, if_pos h1, if_neg h2] at h; cases h
  · rw [if_neg h0, if_neg h1] at h; cases h

/-- No other handler raises an error. -/
theorem exec_fault_cases {i : Instr} {s : State} {f : Fault} (h : exec i s = .fault f) :
    (∃ nnn, i = .call nnn ∧ execCall nnn s = .fault f) ∨ (∃ ign, i = .ret ign ∧ execRet s = .fault f) := by
  cases i
  case call nnn => exact .inl ⟨nnn, rfl, h⟩
  case ret ign => exact .inr ⟨ign, rfl, h⟩
  all_goals cases h

/-- How a handler that answered a next state left memory and `sp`: CLS, CALL and RET by their rules, every other one not
at all. -/
theorem exec_next_cases {i : Instr} {s t : State} (h : exec i s = .next t) :
    (t.mem = s.mem ∧ t.sp = s.sp) ∨
    (t.mem = s.mem.zeroRange displayStart displayBytes ∧ t.sp = s.sp) ∨
    (s.sp ≠ stackTop s.cfg ∧ inStack s.cfg s.sp.toNat ∧ inStack s.cfg (s.sp.toNat + 1) ∧ t.sp = s.sp + 2 ∧
      t.mem = (s.mem.write s.sp.toNat (hiByte (frameWord (s.pc + 2)))).write (s.sp.toNat + 1)
        (loByte (frameWord (s.pc + 2)))) ∨
    (s.sp ≠ stackBottom ∧ inStack s.cfg ((s.sp.toNat : Int) - 2) ∧ inStack s.cfg ((s.sp.toNat : Int) - 1) ∧
      t.sp = s.sp - 2 ∧ t.mem = s.mem) := by
  cases i
  case cls =>
    obtain rfl := Host.Outcome.next.inj h
    exact .inr (.inl ⟨rfl, rfl⟩)
  case call nnn =>
    obtain ⟨h0, h1, h2, rfl⟩ := execCall_next (nnn := nnn) (s := s) h
    exact .inr (.inr (.inl ⟨h0, h1, h2, State.setPc_sp .., State.setPc_mem ..⟩))
  case ret =>
    obtain ⟨h0, h1, h2, rfl⟩ := execRet_next (s := s) h
    exact .inr (.inr (.inr ⟨h0, h1, h2, rfl, rfl⟩))
  all_goals
    obtain rfl := Host.Outcome.next.inj h
    exact .inl ⟨by first | rfl | simp, by first | rfl | simp⟩

/-! The step. -/

/-- Everything a step can do, with the word it fetched written out. -/
theorem step_eq (s : State) :
    step s =
      if s.pc.toNat ≤ 0x0FFE then
        (match decodeWord (joinBytes (s.mem.read s.pc.toNat) (s.mem.read (s.pc.toNat + 1))) with
        | .ok i => exec i s.beginStep
        | .error _ =>
          let w := joinBytes (s.mem.read s.pc.toNat) (s.mem.read (s.pc.toNat + 1))
          .fault (.decodeError s.pc w (dispatchKey w)))
      else .fault (.accessViolation (if 0x0FFF < s.pc.toNat then (s.pc.toNat : Int) else 0x1000)) := by
  unfold step
  rw [fetch_eq]
  by_cases h : s.pc.toNat ≤ 0x0FFE
  · simp only [if_pos h, decodeStep]
    cases decodeWord (joinBytes (s.mem.read s.pc.toNat) (s.mem.read (s.pc.toNat + 1))) <;> rfl
  · simp only [if_neg h]

/-- What a step that answered a next state did: it fetched a word, decoded it and ran its handler. -/
theorem step_next {s t : State} (h : step s = .next t) :
    ∃ w i, s.fetch = .ok w ∧ decodeWord w = .ok i ∧ exec i s.beginStep = .next t := by
  unfold step at h
  split at h
  · cases h
  · rename_i w hw
    split at h
    · cases h
    · rename_i i hi
      exact ⟨w, i, hw, (decodeStep_ok_iff s w i).mp hi, h⟩

end Sys2Proof.Machine
end

