-- ==== Sys2Proof/Tests/Slice0.lean ====
section
/-! SUPPORT. Tests of the model on small states, and a witness for every obligation with hypotheses. The numbers Tnn are the
test vectors of spec/95_test_vectors.md, which gives every expected result below. -/

namespace Sys2Proof.Tests

open Sys2Proof Sys2Proof.Machine

/-- The reset state with `pc` and some registers set, and a word placed where the next step fetches. -/
def start (pc : Word) (w : Nat) (rs : List (Reg × Byte)) : State :=
  (rs.foldl (fun s p => s.setV p.1 p.2) (State.reset.setPc pc)).withFetchWord 16 w

/-- `start` at 0x0200 with another `sp`. -/
def startSp (sp : Word) (w : Nat) : State := (start 0x0200 w []).setSp sp

/-- What `f` sees of the next state. -/
def see {α : Type} (o : Out) (f : State → α) : Option α :=
  match o with
  | .next t => some (f t)
  | .fault _ => none
  | .refused _ => none

/-- The error of an answer. -/
def err (o : Out) : Option Fault :=
  match o with
  | .next _ => none
  | .fault f => some f
  | .refused _ => none

/-- One step from `start` at 0x0200: a register, the flag register and `pc` after it. -/
def run (w : Nat) (rs : List (Reg × Byte)) (r : Reg) : Option (Byte × Byte × Word) :=
  see (step (start 0x0200 w rs)) (fun t => (t.getV r, t.getV 0xF, t.pc))

/-! Well-formedness: each check refuses an ill-formed instruction, and the form with zeros passes. -/

theorem test_wellFormed_cls : (Instr.cls 0xA).wellFormed = false ∧ (Instr.cls 0x0).wellFormed = true := by decide
theorem test_wellFormed_ret : (Instr.ret 0x7).wellFormed = false ∧ (Instr.ret 0x0).wellFormed = true := by decide
theorem test_wellFormed_seReg : (Instr.seReg 0xA 0xB 0x7).wellFormed = false ∧ (Instr.seReg 0xA 0xB 0x0).wellFormed = true := by
  decide
theorem test_wellFormed_sneReg :
    (Instr.sneReg 0xA 0xB 0x1).wellFormed = false ∧ (Instr.sneReg 0xA 0xB 0x0).wellFormed = true := by decide
theorem test_wellFormed_shr : (Instr.shr 0x0 0x1).wellFormed = false ∧ (Instr.shr 0xF 0x0).wellFormed = true := by decide
theorem test_wellFormed_placeholder : (Instr.drw 0x015).wellFormed = true := by decide

/-! Decoding: a word of every constructor, written out bit by bit from R64's word patterns and R61's fields. -/

/-- Family 0 and the address formats (T1, T3, T18, R64 rows 1 to 4, 19, 20). -/
theorem test_decode_addresses :
    decodeWord 0b0000000011100000 = .ok (.cls 0b0000) ∧ decodeWord 0b0000101011100000 = .ok (.cls 0b1010) ∧
    decodeWord 0b0000000011101110 = .ok (.ret 0b0000) ∧ decodeWord 0b0000011111101110 = .ok (.ret 0b0111) ∧
    decodeWord 0b0001101010111100 = .ok (.jp 0b101010111100) ∧ decodeWord 0b0010001000000110 = .ok (.call 0b001000000110) ∧
    decodeWord 0b1010010101010101 = .ok (.ldI 0b010101010101) ∧
    decodeWord 0b1011111111111110 = .ok (.jpV0 0b111111111110) := by decide

/-- The register and immediate format (T7, T19, R64 rows 5, 6, 8, 9, 21). -/
theorem test_decode_immediates :
    decodeWord 0b0011001100101010 = .ok (.seImm 0b0011 0b00101010) ∧
    decodeWord 0b0100001111111111 = .ok (.sneImm 0b0011 0b11111111) ∧
    decodeWord 0b0110101000101010 = .ok (.ldImm 0b1010 0b00101010) ∧
    decodeWord 0b0111111100000001 = .ok (.addImm 0b1111 0b00000001) ∧
    decodeWord 0b1100000011111111 = .ok (.rnd 0b0000 0b11111111) := by decide

/-- The two-register format of families 5 and 9 (T12, T13). -/
theorem test_decode_skips :
    decodeWord 0b0101101010110111 = .ok (.seReg 0b1010 0b1011 0b0111) ∧
    decodeWord 0b1001101010110001 = .ok (.sneReg 0b1010 0b1011 0b0001) := by decide

/-- Family 8 (T8, T14, R64 rows 10 to 17). -/
theorem test_decode_alu :
    decodeWord 0b1000000100100000 = .ok (.ldReg 0b0001 0b0010) ∧ decodeWord 0b1000000100100001 = .ok (.orReg 0b0001 0b0010) ∧
    decodeWord 0b1000000100100010 = .ok (.andReg 0b0001 0b0010) ∧ decodeWord 0b1000000100100011 = .ok (.xorReg 0b0001 0b0010) ∧
    decodeWord 0b1000101010110100 = .ok (.addReg 0b1010 0b1011) ∧ decodeWord 0b1000101010110101 = .ok (.subReg 0b1010 0b1011) ∧
    decodeWord 0b1000111100000110 = .ok (.shr 0b1111 0b0000) ∧ decodeWord 0b1000000000010110 = .ok (.shr 0b0000 0b0001) ∧
    decodeWord 0b1000101010110111 = .ok (.subnReg 0b1010 0b1011) := by decide

/-- The placeholders (T15, T16, T17). -/
theorem test_decode_placeholders :
    decodeWord 0b1101000000010101 = .ok (.drw 0b000000010101) ∧ decodeWord 0b1110000110011110 = .ok (.keyop 0b000110011110) ∧
    decodeWord 0b1111111111111111 = .ok (.misc 0b111111111111) := by decide

/-- Words with no handler, and their keys (R65; T5, T6 and T9 to T11 among them). -/
theorem test_decode_illegal :
    decodeWord 0x0000 = .error (.noHandler 0x0000) ∧ decodeWord 0x00E1 = .error (.noHandler 0x00E1) ∧
    decodeWord 0x8AB8 = .error (.noHandler 0x8008) ∧ decodeWord 0x8ABE = .error (.noHandler 0x800E) ∧
    decodeWord 0x8ABF = .error (.noHandler 0x800F) := by decide

/-- The high byte comes first (R43), and the table's numbering is that of the word. -/
theorem test_decode_bytes :
    decode [0x22, 0x06, 0x61] = .ok (.call 0x206, [0x61]) ∧ decodeTableWord 16 0x2206 = some (.call 0x206) ∧
    decode [0x22] = .error .truncated := by decide

/-! One step each. -/

/-- T110, its edges. -/
theorem test_cls :
    see (step (((((start 0x0200 0x00E0 []).hostWrite 0xEFF 0x77).hostWrite 0xF00 0xFF).hostWrite 0xFFF 0xFF)))
      (fun t => (t.mem.read 0x0EFF, t.mem.read 0x0F00, t.mem.read 0x0FFF, t.pc)) = some (0x77, 0x00, 0x00, 0x0202) := by decide
/-- T50, T51. -/
theorem test_ret :
    see (step (((startSp 0x0EA2 0x00EE).hostWrite 0xEA0 0x02).hostWrite 0xEA1 0x02))
      (fun t => (t.sp, t.pc, t.mem.read 0x0EA0)) = some (0x0EA0, 0x0202, 0x02) ∧
    err (step (startSp 0x0EA0 0x00EE)) = some (.stackUnderflow 0x0200 0x0EA0) := by decide
/-- T52: no mask. T53, T54: a corrupted `sp`. -/
theorem test_ret_corrupted :
    see (step (((startSp 0x0EA2 0x00EE).hostWrite 0xEA0 0xF2).hostWrite 0xEA1 0x34)) (fun t => t.pc) = some 0xF234 ∧
    err (step (startSp 0x0EA1 0x00EE)) = some (.accessViolation 0x0E9F) ∧
    err (step (startSp 0x0FA2 0x00EE)) = some (.accessViolation 0x0FA0) := by decide
/-- T40, T42. -/
theorem test_jp :
    see (step (start 0x0200 0x1ABC [])) (fun t => t.pc) = some 0x0ABC ∧
    see (step (start 0x0200 0x1FFF [])) (fun t => (t.pc, err (step t))) = some (0x0FFF, some (.accessViolation 0x1000)) := by
  decide
/-- T44, T45, T46: the stored return address is `pc + 2`, in 12 bits. -/
theorem test_call :
    see (step (startSp 0x0EA0 0x2206)) (fun t => (t.mem.read 0x0EA0, t.mem.read 0x0EA1, t.sp, t.pc)) =
      some (0x02, 0x02, 0x0EA2, 0x0206) ∧
    see (step ((start 0x0ABC 0x2123 []).setSp 0x0EA2)) (fun t => (t.mem.read 0x0EA2, t.mem.read 0x0EA3, t.sp, t.pc)) =
      some (0x0A, 0xBE, 0x0EA4, 0x0123) ∧
    see (step (start 0x0FFE 0x2300 [])) (fun t => (t.mem.read 0x0EA0, t.mem.read 0x0EA1, t.sp, t.pc)) =
      some (0x00, 0x00, 0x0EA2, 0x0300) := by decide
/-- T49, T55, T56: the errors of CALL. -/
theorem test_call_errors :
    err (step (startSp 0x0FA0 0x2300)) = some (.stackOverflow 0x0200 0x0FA0) ∧
    err (step (startSp 0x0FA2 0x2300)) = some (.accessViolation 0x0FA2) ∧
    err (step (startSp 0x0E9E 0x2300)) = some (.accessViolation 0x0E9E) := by decide
/-- T20, T21. -/
theorem test_seImm :
    run 0x332A [(0x3, 0x2A)] 0x3 = some (0x2A, 0x00, 0x0204) ∧ run 0x332B [(0x3, 0x2A)] 0x3 = some (0x2A, 0x00, 0x0202) := by
  decide
/-- T33: a skip past the end of memory. -/
theorem test_seImm_top :
    see (step (start 0x0FFE 0x3000 [])) (fun t => (t.pc, err (step t))) = some (0x1002, some (.accessViolation 0x1002)) := by
  decide
/-- T25, T26. -/
theorem test_sneImm :
    run 0x432A [(0x3, 0x2A)] 0x3 = some (0x2A, 0x00, 0x0202) ∧ run 0x4300 [(0x3, 0x2A)] 0x3 = some (0x2A, 0x00, 0x0204) := by
  decide
/-- T28, T29, T32. -/
theorem test_seReg :
    run 0x5120 [(0x1, 0x07), (0x2, 0x07)] 0x1 = some (0x07, 0x00, 0x0204) ∧
    run 0x5120 [(0x1, 0x07), (0x2, 0x08)] 0x1 = some (0x07, 0x00, 0x0202) ∧
    run 0x5110 [(0x1, 0x07)] 0x1 = some (0x07, 0x00, 0x0204) := by decide
/-- T30, T31. -/
theorem test_sneReg :
    run 0x9120 [(0x1, 0x07), (0x2, 0x08)] 0x1 = some (0x07, 0x00, 0x0204) ∧
    run 0x9110 [(0x1, 0x07)] 0x1 = some (0x07, 0x00, 0x0202) := by decide
/-- T57, T58. -/
theorem test_jpV0 :
    run 0xB555 [(0x0, 0x03)] 0x0 = some (0x03, 0x00, 0x0558) ∧ run 0xBFFF [(0x0, 0xFF)] 0x0 = some (0xFF, 0x00, 0x10FE) := by
  decide
/-- T60, T61. -/
theorem test_ldImm :
    run 0x6A2A [] 0xA = some (0x2A, 0x00, 0x0202) ∧ run 0x6F00 [(0xF, 0x01)] 0xF = some (0x00, 0x00, 0x0202) := by decide
/-- T63, T65. -/
theorem test_addImm :
    run 0x7101 [(0x1, 0xFF)] 0x1 = some (0x00, 0x00, 0x0202) ∧ run 0x7F01 [(0xF, 0x01)] 0xF = some (0x02, 0x02, 0x0202) := by
  decide
/-- T66. -/
theorem test_ldReg : run 0x8120 [(0x2, 0x55)] 0x1 = some (0x55, 0x00, 0x0202) := by decide
/-- T67. -/
theorem test_orReg : run 0x8121 [(0x1, 0xF0), (0x2, 0x0F), (0xF, 0x01)] 0x1 = some (0xFF, 0x01, 0x0202) := by decide
/-- T68. -/
theorem test_andReg : run 0x8122 [(0x1, 0xF0), (0x2, 0x3C), (0xF, 0x01)] 0x1 = some (0x30, 0x01, 0x0202) := by decide
/-- T69, T70. -/
theorem test_xorReg :
    run 0x8123 [(0x1, 0xF0), (0x2, 0x3C), (0xF, 0x01)] 0x1 = some (0xCC, 0x01, 0x0202) ∧
    run 0x8113 [(0x1, 0xA5)] 0x1 = some (0x00, 0x00, 0x0202) := by decide
/-- T71, T72, T74. -/
theorem test_addReg :
    run 0x8014 [(0x0, 0xFF), (0x1, 0xFF)] 0x0 = some (0xFE, 0x01, 0x0202) ∧
    run 0x8014 [(0x0, 0x0E), (0x1, 0x01), (0xF, 0x01)] 0x0 = some (0x0F, 0x00, 0x0202) ∧
    run 0x8014 [(0x0, 0x7F), (0x1, 0x80)] 0x0 = some (0xFF, 0x00, 0x0202) := by decide
/-- T76, T77: `VF` as destination and as source. -/
theorem test_addReg_flag :
    run 0x8F14 [(0xF, 0x90), (0x1, 0x90)] 0xF = some (0x20, 0x20, 0x0202) ∧
    run 0x81F4 [(0x1, 0xFF), (0xF, 0x01)] 0x1 = some (0x00, 0x01, 0x0202) := by decide
/-- T78, T79, T80. -/
theorem test_subReg :
    run 0x8015 [(0x0, 0x05), (0x1, 0x03)] 0x0 = some (0x02, 0x01, 0x0202) ∧
    run 0x8015 [(0x0, 0x03), (0x1, 0x05), (0xF, 0x01)] 0x0 = some (0xFE, 0x00, 0x0202) ∧
    run 0x8015 [(0x0, 0x07), (0x1, 0x07), (0xF, 0x01)] 0x0 = some (0x00, 0x00, 0x0202) := by decide
/-- T85, T86: `VF` as destination and as source. -/
theorem test_subReg_flag :
    run 0x8F15 [(0xF, 0x05), (0x1, 0x03)] 0xF = some (0x02, 0x02, 0x0202) ∧
    run 0x81F5 [(0x1, 0x05), (0xF, 0x03)] 0x1 = some (0x02, 0x01, 0x0202) := by decide
/-- T90, T91, T92. -/
theorem test_shr :
    run 0x8006 [(0x0, 0xFF)] 0x0 = some (0x7F, 0x01, 0x0202) ∧
    run 0x8006 [(0x0, 0x80), (0xF, 0x01)] 0x0 = some (0x40, 0x00, 0x0202) ∧
    run 0x8016 [(0x0, 0x03), (0x1, 0xAA)] 0x1 = some (0xAA, 0x01, 0x0202) := by decide
/-- T93. -/
theorem test_shr_flag : run 0x8F06 [(0xF, 0x05)] 0xF = some (0x02, 0x02, 0x0202) := by decide
/-- T94, T95, T97. -/
theorem test_subnReg :
    run 0x8017 [(0x0, 0x03), (0x1, 0x05)] 0x0 = some (0x02, 0x01, 0x0202) ∧
    run 0x8017 [(0x0, 0x05), (0x1, 0x03), (0xF, 0x01)] 0x0 = some (0xFE, 0x00, 0x0202) ∧
    run 0x8017 [(0x0, 0x01), (0x1, 0x00)] 0x0 = some (0xFF, 0x00, 0x0202) := by decide
/-- T98. -/
theorem test_subnReg_flag : run 0x8F17 [(0xF, 0x03), (0x1, 0x05)] 0xF = some (0x02, 0x02, 0x0202) := by decide
/-- T99, T100. -/
theorem test_ldI :
    see (step (start 0x0200 0xA555 [])) (fun t => (t.ireg, t.pc)) = some (0x0555, 0x0202) ∧
    see (step ((start 0x0200 0xAFFF []).setI 0x0555)) (fun t => t.ireg) = some 0x0FFF := by decide
/-- T112, T114, T115, with the byte from the source as the vectors give it. -/
theorem test_rnd :
    (rndWith 0xA7 0x2 0x0F State.reset).getV 0x2 = 0x07 ∧ (rndWith 0x5C 0x2 0xFF State.reset).getV 0x2 = 0x5C ∧
    (rndWith 0xFF 0xF 0xF0 State.reset).getV 0xF = 0xF0 := by decide
/-- RND in a step: only the count of draws and `pc` are known. -/
theorem test_rnd_step : see (step (start 0x0200 0xC20F [])) (fun t => (t.draws, t.pc)) = some (1, 0x0202) := by decide
/-- T116: nothing but `pc` and the status output. -/
theorem test_drw :
    see (step (start 0x0200 0xD015 [(0xF, 0x01)])) (fun t => (t.pc, t.status, t.unimplSeen, t.getV 0xF, t.mem.read 0x0F00)) =
      some (0x0202, .unimplemented, true, 0x01, 0x00) := by decide
/-- T117. -/
theorem test_keyop :
    see (step (start 0x0200 0xE19E [])) (fun t => (t.pc, t.status)) = some (0x0202, .unimplemented) := by decide
/-- T118. -/
theorem test_misc :
    see (step (start 0x0200 0xF315 [(0x3, 0x09)])) (fun t => (t.pc, t.status, t.dt)) = some (0x0202, .unimplemented, 0x00) := by
  decide
/-- P4: with `UNIMPL_ADVANCES_PC = false` the run stays at the placeholder. -/
theorem test_placeholder_stays :
    see (exec (.drw 0x015) { State.reset with cfg := ⟨127, false⟩ }) (fun t => t.pc) = some 0x0200 := by decide
/-- P5: with `STACK_TOP = 0x0F00` the 49th CALL raises. -/
theorem test_stackTop_parameter :
    stackTop ⟨47, true⟩ = 0x0F00 ∧
    err (exec (.call 0x200) { State.reset with cfg := ⟨47, true⟩, sp := 0x0F00 }) = some (.stackOverflow 0x0200 0x0F00) := by
  decide
/-- T130 to T133. -/
theorem test_fetch_bounds :
    see (step (start 0x0FFE 0x6011 [])) (fun t => (t.getV 0x0, t.pc)) = some (0x11, 0x1000) ∧
    err (step (State.reset.setPc 0x0FFF)) = some (.accessViolation 0x1000) ∧
    err (step (State.reset.setPc 0x1000)) = some (.accessViolation 0x1000) ∧
    err (step (State.reset.setPc 0xFFFF)) = some (.accessViolation 0xFFFF) := by decide
/-- T134. -/
theorem test_reset_step : err (step State.reset) = some (.decodeError 0x0200 0x0000 0x0000) := by decide
/-- T138, T139, T140. -/
theorem test_tick :
    let f := fun (d e : Byte) => ((State.reset.setTimers d e).tick.dt, (State.reset.setTimers d e).tick.st)
    f 0x02 0x00 = (0x01, 0x00) ∧ f 0x01 0x05 = (0x00, 0x04) ∧ f 0x00 0x00 = (0x00, 0x00) := by decide
/-- T141. -/
theorem test_host_access : (applyEvent (applyEvent State.reset (.hostWrite 0xF00 0x80)).1 (.hostRead 0xF00)).2 = .byte 0x80 := by
  decide
/-- R130's codes. -/
theorem test_outcome_codes :
    outcomeCode (some (.decodeError 0 0 0)) = 1 ∧ outcomeCode (some (.stackOverflow 0 0)) = 2 ∧
    outcomeCode (some (.stackUnderflow 0 0)) = 3 ∧ outcomeCode (some (.accessViolation 0)) = 4 := by decide

/-! Witnesses: for every obligation with hypotheses, concrete states and operands that meet them; one for each clause, at a
boundary of its range. -/

/-- `x == y`, and `x` other than the flag register, at both ends of its range. -/
theorem witness_operands :
    ((0x1#4 : Reg) = 0x1#4 ∧ (0x0#4 : Reg) ≠ 0xF#4 ∧ (0xE#4 : Reg) ≠ 0xF#4) ∧
    see (exec (.xorReg 0x1 0x1) (State.reset.setV 0x1 0xA5)) (fun t => t.getV 0x1) = some 0x00 ∧
    see (exec (.addReg 0xE 0x0) ((State.reset.setV 0xE 0xFF).setV 0x0 0x01)) (fun t => t.getV 0xF) = some 0x01 ∧
    see (exec (.subReg 0xE 0x0) (State.reset.setV 0xE 0x01)) (fun t => t.getV 0xF) = some 0x01 ∧
    see (exec (.shr 0xE 0x0) (State.reset.setV 0xE 0x01)) (fun t => t.getV 0xF) = some 0x01 ∧
    see (exec (.subnReg 0xE 0x0) (State.reset.setV 0x0 0x01)) (fun t => t.getV 0xF) = some 0x01 := by decide

/-- JpSetsThePcToItsOperand: a jump to itself, at 0x0200 and at 0x0000; and a jump to 0x0FFF. -/
theorem witness_jp :
    ((0x200#12 : Addr).toNat = State.reset.pc.toNat ∧ see (exec (.jp 0x200) State.reset) (fun t => decide (t = State.reset)) = some true) ∧
    ((0x000#12 : Addr).toNat = (State.reset.setPc 0x0000).pc.toNat) ∧
    see (exec (.jp 0xFFF) State.reset) (fun t => err (step t)) = some (some (.accessViolation 0x1000)) := by decide

/-- JpV0AddsRegisterZeroToItsOperand: the smallest and the largest sum above 0x0FFF. -/
theorem witness_jpV0 :
    see (exec (.jpV0 0xFFF) (State.reset.setV 0x0 0x01)) (fun t => (t.pc, err (step t))) =
      some (0x1000, some (.accessViolation 0x1000)) ∧
    see (exec (.jpV0 0xFFF) (State.reset.setV 0x0 0xFF)) (fun t => (t.pc, err (step t))) =
      some (0x10FE, some (.accessViolation 0x10FE)) := by decide

/-- SeRegSkipsWhenEqual and SneRegSkipsWhenDifferent with `x == y`, at both ends of memory. -/
theorem witness_same_register :
    see (exec (.seReg 0xF 0xF 0x0) (State.reset.setPc 0x0FFE)) (fun t => t.pc) = some 0x1002 ∧
    see (exec (.sneReg 0x0 0x0 0xF) (State.reset.setPc 0x0000)) (fun t => t.pc) = some 0x0002 := by decide

/-- `sp` at `STACK_TOP`; outside the region at either side; its last byte only; and the first and the last free frame. -/
theorem witness_call :
    (State.reset.setSp 0x0FA0).sp = stackTop State.reset.cfg ∧
    ([0x0FA1#16, 0x0FA2, 0xFFFF, 0x0E9F, 0x0000].all fun v =>
      v ≠ stackTop State.reset.cfg ∧ ¬ inStack State.reset.cfg v.toNat) ∧
    (0x0F9F#16 ≠ stackTop State.reset.cfg ∧ inStack State.reset.cfg 0x0F9F ∧ ¬ inStack State.reset.cfg (0x0F9F + 1)) ∧
    ([0x0EA0#16, 0x0F00, 0x0F9E].all fun v =>
      v ≠ stackTop State.reset.cfg ∧ inStack State.reset.cfg v.toNat ∧ inStack State.reset.cfg (v.toNat + 1)) := by decide

/-- What CALL answers at those boundaries: a full stack, one past it, an odd `sp` at the last byte, the last frame (T48), and a
frame in the display (T47). -/
theorem witness_call_answers :
    err (exec (.call 0x300) (State.reset.setSp 0x0FA0)) = some (.stackOverflow 0x0200 0x0FA0) ∧
    err (exec (.call 0x300) (State.reset.setSp 0x0E9F)) = some (.accessViolation 0x0E9F) ∧
    err (exec (.call 0x300) (State.reset.setSp 0x0F9F)) = some (.accessViolation 0x0FA0) ∧
    see (exec (.call 0x300) (State.reset.setSp 0x0F9E)) (fun t => (t.mem.read 0x0F9E, t.mem.read 0x0F9F, t.sp)) =
      some (0x02, 0x02, 0x0FA0) ∧
    see (exec (.call 0x300) (State.reset.setSp 0x0F00)) (fun t => (t.displayByte 0, t.displayByte 1, t.sp)) =
      some (0x02, 0x02, 0x0F02) := by decide

/-- `sp` at `STACK_BOTTOM`; outside on either side; its last byte only; and the first and the last frame. -/
theorem witness_ret :
    State.reset.sp.toNat = 0x0EA0 ∧
    ([0x0000#16, 0x0EA1, 0x0FA2, 0xFFFF].all fun v =>
      v.toNat ≠ 0x0EA0 ∧ ¬ inStack State.reset.cfg ((v.toNat : Int) - 2)) ∧
    ((0x0FA1#16).toNat ≠ 0x0EA0 ∧ inStack State.reset.cfg ((0x0FA1#16).toNat - 2 : Int) ∧
      ¬ inStack State.reset.cfg ((0x0FA1#16).toNat - 1 : Int)) ∧
    ([0x0EA2#16, 0x0FA0].all fun v =>
      v.toNat ≠ 0x0EA0 ∧ inStack State.reset.cfg ((v.toNat : Int) - 2) ∧ inStack State.reset.cfg ((v.toNat : Int) - 1)) := by decide

/-- What RET answers at those boundaries; the smallest popped value whose fetch raises. -/
theorem witness_ret_answers :
    err (exec (.ret 0x0) State.reset) = some (.stackUnderflow 0x0200 0x0EA0) ∧
    err (exec (.ret 0x0) (State.reset.setSp 0x0000)) = some (.accessViolation (-2)) ∧
    err (exec (.ret 0x0) (State.reset.setSp 0x0FA1)) = some (.accessViolation 0x0FA0) ∧
    see (exec (.ret 0x0) (State.reset.setSp 0x0FA0)) (fun t => (t.sp, t.pc)) = some (0x0F9E, 0x0000) ∧
    see (exec (.ret 0x0) (((State.reset.setSp 0x0EA2).hostWrite 0xEA0 0x0F).hostWrite 0xEA1 0xFF))
      (fun t => (t.pc, err (step t))) = some (0x0FFF, some (.accessViolation 0x1000)) := by decide

/-- ClsZeroesTheDisplayAndNothingElse: the two ends of the range in which the next fetch reads 0x0000, and the first `pc`
past it (log entry 29). -/
theorem witness_cls :
    see (exec (.cls 0x0) (State.reset.setPc 0x0F00)) (fun t => err (step t)) = some (some (.decodeError 0x0F02 0x0000 0x0000)) ∧
    see (exec (.cls 0x0) (State.reset.setPc 0x0FFC)) (fun t => err (step t)) = some (some (.decodeError 0x0FFE 0x0000 0x0000)) ∧
    see (exec (.cls 0x0) (State.reset.setPc 0x0FFD)) (fun t => err (step t)) = some (some (.accessViolation 0x1000)) := by decide

/-- PlaceholdersOnlyReportAndAdvance: each placeholder, and a later instruction that completes. -/
theorem witness_placeholders :
    ([Instr.drw 0x015, .keyop 0x19E, .misc 0xFFF].all fun i =>
      see (exec i State.reset) (fun t => see (exec (.jp 0x200) t) (fun u => u.unimplSeen)) = some (some true)) := by decide

/-- The words of the encoding statements: one that decodes, the smallest and largest illegal words of each family, the legal
words beside them, and a word with a row's match. -/
theorem witness_words :
    decodeWord 0x0AE0 = .ok (.cls 0xA) ∧
    ([0x0000#16, 0x00DF, 0x00E1, 0x0FFF, 0x8008, 0x8FFF].all fun w => illegalWord w) ∧
    ([0x00E0#16, 0x0FEE, 0x1000, 0x7FFF, 0x8000, 0x8FF7, 0x9000, 0xFFFF].all fun w => ¬ illegalWord w) ∧
    ((handlerTable.take 1).all fun r => 0x0AE0#16 &&& r.mask = r.pattern) := by decide

/-- StepRunsTheDecodedInstruction and LoadedWordRunsInTheNextStep: a decodable word at either end of memory. -/
theorem witness_step :
    ([0x0000#16, 0x0200, 0x0FFE].all fun p => p.toNat ≤ 0x0FFE ∧ (start p 0x6011 []).pc = p ∧
      decode [(start p 0x6011 []).mem.read p.toNat, (start p 0x6011 []).mem.read (p.toNat + 1)] = .ok (.ldImm 0x0 0x11, [])) ∧
    decodeWord 0x6011 = .ok (.ldImm 0x0 0x11) := by decide

/-- The four exact error statements: each disjunct of AccessViolation at its boundary, the other three errors, and `sp` just past
either bound. -/
theorem witness_errors :
    err (step (State.reset.setPc 0x0FFF)) = some (.accessViolation 0x1000) ∧
    err (step (State.reset.setPc 0x1000)) = some (.accessViolation 0x1000) ∧
    err (step (startSp 0x0E9F 0x2300)) = some (.accessViolation 0x0E9F) ∧
    err (step (startSp 0x0F9F 0x2300)) = some (.accessViolation 0x0FA0) ∧
    err (step (startSp 0x0FA2 0x00EE)) = some (.accessViolation 0x0FA0) ∧
    err (step (startSp 0x0FA1 0x00EE)) = some (.accessViolation 0x0FA0) ∧
    err (step (start 0x0200 0x8AB8 [])) = some (.decodeError 0x0200 0x8AB8 0x8008) ∧
    err (step (startSp 0x0FA1 0x2300)) = some (.accessViolation 0x0FA1) ∧
    err (step (startSp 0x0E9F 0x00EE)) = some (.accessViolation 0x0E9D) ∧
    err (step (startSp 0x0FA0 0x2300)) = some (.stackOverflow 0x0200 0x0FA0) ∧
    err (step (startSp 0x0EA0 0x0FEE)) = some (.stackUnderflow 0x0200 0x0EA0) := by decide

/-- A step that raises (ErrorLeavesTheStateUntouched). -/
theorem witness_failed : step State.reset = .fault (.decodeError 0x0200 0x0000 0x0000) := rfl

/-- A step that completes: a placeholder, and one that is none (StatusIsUnimplementedExactlyForPlaceholders). -/
theorem witness_status :
    (∃ t, step (start 0x0200 0xD015 []) = .next t ∧ t.status = .unimplemented) ∧
    (∃ t, step (start 0x0200 0xC0FF []) = .next t ∧ t.status = .executed) := ⟨⟨_, rfl, rfl⟩, ⟨_, rfl, rfl⟩⟩

/-- FailedRunIsNeverFinal: T134 and T135 as events, the mark before and after, what a reset leaves of it, and that a run which
did not fail has final states. -/
theorem witness_failed_run :
    State.reset.failed = false ∧ failedEnd (runEvents [.step, .step] State.reset) ∧
    failedEnd (runEvents [.tick, .step, .reset, .hostWrite 0x200 0x12] State.reset) ∧
    (runEvents [.step] State.reset).pc = 0x0200 ∧
    finalEnd (runEvents [.hostWrite 0x200 0x12, .step] State.reset) ∧
    ¬ finalEnd (runEvents [.step, .hostWrite 0x200 0x12, .step] State.reset) := by decide

/-- ParkedStepChangesNothing: T41, and the last address at which a run can park. -/
theorem witness_parked : parkedEnd (start 0x0200 0x1200 []) ∧ parkedEnd (start 0x0FFE 0x1FFE []) := by decide

/-- The invariant, and a step from it (EveryStepKeepsTheInvariant, EveryRunKeepsTheInvariant). -/
theorem witness_inv : Inv (startSp 0x0F9E 0x2300) ∧ ∃ t, step (startSp 0x0F9E 0x2300) = .next t ∧ t.sp = 0x0FA0 :=
  ⟨by decide, _, rfl, rfl⟩

/-- NoAccessViolationFromAGoodStack: an empty and a full stack, at either end of memory. -/
theorem witness_good_stack :
    (stackOk (start 0x0000 0x00EE []) ∧ (start 0x0000 0x00EE []).pc.toNat ≤ 0x0FFE) ∧
    (stackOk ((start 0x0FFE 0x2300 []).setSp 0x0FA0) ∧ ((start 0x0FFE 0x2300 []).setSp 0x0FA0).pc.toNat ≤ 0x0FFE) := by decide

/-- ZeroTimersStayZero, from reset. -/
theorem witness_zero_timers : State.reset.dt = 0x00 ∧ State.reset.st = 0x00 := by decide

/-- OnlyLdIWritesTheAddressRegister: LD I and another instruction, with `I` at its largest value. -/
theorem witness_address_register :
    (∃ t, exec (.ldI 0xFFF) State.reset = .next t ∧ t.ireg = 0x0FFF) ∧
    ((State.reset.setI 0x0FFF).ireg.toNat < 0x1000 ∧ ∃ t, exec (.jp 0x000) (State.reset.setI 0x0FFF) = .next t ∧ t.ireg = 0x0FFF) ∧
    ∀ nnn, Instr.jp 0x000 ≠ .ldI nnn := ⟨⟨_, rfl, rfl⟩, ⟨by decide, _, rfl, rfl⟩, fun _ h => by cases h⟩

/-- OnlyCallAndClsWriteMemory: both writers, each changing a byte. -/
theorem witness_memory_writers :
    (∃ t, exec (.call 0x300) State.reset = .next t ∧ t.mem.read 0x0EA1 ≠ State.reset.mem.read 0x0EA1) ∧
    (∃ t, exec (.cls 0x0) (State.reset.hostWrite 0xFFF 0x01) = .next t ∧
      t.mem.read 0x0FFF ≠ (State.reset.hostWrite 0xFFF 0x01).mem.read 0x0FFF) :=
  ⟨⟨_, rfl, by decide⟩, ⟨_, rfl, by decide⟩⟩

/-- RegistersChangeOnlyAsDestinationOrFlag: a destination and a flag that change. -/
theorem witness_registers :
    ∃ t, exec (.subReg 0x0 0x1) (State.reset.setV 0x0 0x01) = .next t ∧
      flagWritten (State.reset.setV 0x0 0x01) (.subReg 0x0 0x1) = some 1 ∧ destReg (.subReg 0x0 0x1) ≠ some 0xF#4 ∧
      t.getV 0xF = 0x01 := ⟨_, rfl, by decide, by decide, by decide⟩

/-- PcFollowsTheTableOfTheSpec: the largest `pc`, of JP V0 and of a skip from 0x0FFE. -/
theorem witness_pc :
    (∃ t, exec (.jpV0 0xFFF) (State.reset.setV 0x0 0xFF) = .next t ∧ t.pc = 0x10FE) ∧
    ((State.reset.setPc 0x0FFE).pc.toNat ≤ 0x0FFE ∧
      ∃ t, exec (.seImm 0x0 0x00) (State.reset.setPc 0x0FFE) = .next t ∧ t.pc = 0x1002) ∧
    ∀ ign, Instr.jpV0 0xFFF ≠ .ret ign := ⟨⟨_, rfl, by decide⟩, ⟨by decide, _, rfl, by decide⟩, fun _ h => by cases h⟩

/-- BalancedCallReturnRestoresPcAndSp: a nested body, from the last `pc` and the deepest `sp` from which it completes. -/
theorem witness_balanced :
    Balanced [.ldImm 0xA 0x2A, .call 0x300, .jp 0x400, .ret 0x0, .addImm 0xA 0x01] ∧
    stackOk ((State.reset.setPc 0x0FFC).setSp 0x0F9C) ∧ ((State.reset.setPc 0x0FFC).setSp 0x0F9C).pc.toNat ≤ 0x0FFC ∧
    see (execAll (.call 0x206 :: ([.ldImm 0xA 0x2A, .call 0x300, .jp 0x400, .ret 0x0, .addImm 0xA 0x01] ++ [.ret 0x0]))
      ((State.reset.setPc 0x0FFC).setSp 0x0F9C)) (fun t => (t.pc, t.sp, t.getV 0xA)) = some (0x0FFE, 0x0F9C, 0x2B) :=
  ⟨.plain rfl (.nested (body := [.jp 0x400]) (.plain rfl .nil) (.plain rfl .nil)), by decide, by decide, by decide⟩

/-- NestedCallReturnWithCls: a CLS inside and outside the nested CALL, from the last `sp` whose frame is below the display and
the last `pc`; and a deep stack with no CLS. -/
theorem witness_nested_cls :
    Balanced ([Instr.cls 0x0, .call 0x300, .cls 0x0, .ret 0x0, .cls 0x0].filter (fun i => !isCls i)) ∧
    stackOk ((State.reset.setPc 0x0FFD).setSp 0x0EFE) ∧ ((State.reset.setPc 0x0FFD).setSp 0x0EFE).sp.toNat ≤ 0x0EFE ∧
    ((State.reset.setPc 0x0FFD).setSp 0x0EFE).pc.toNat ≤ 0x0FFD ∧
    see (execAll (.call 0x206 :: ([.cls 0x0, .call 0x300, .cls 0x0, .ret 0x0, .cls 0x0] ++ [.ret 0x0]))
      ((State.reset.setPc 0x0FFD).setSp 0x0EFE)) (fun t => (t.pc, t.sp)) = some (0x0FFF, 0x0EFE) ∧
    [Instr.jp 0x400].all (fun i => !isCls i) = true ∧
    see (execAll (.call 0x206 :: ([.jp 0x400] ++ [.ret 0x0])) ((State.reset.setPc 0x0FFD).setSp 0x0F9E))
      (fun t => (t.pc, t.sp)) = some (0x0FFF, 0x0F9E) :=
  ⟨.nested (body := []) .nil .nil, by decide, by decide, by decide, by decide, by decide, by decide⟩

/-- ClsDestroysTheDeepFramesOnly: T111, the frame at 0x0F00, and the frame just below it. -/
theorem witness_deep_frames :
    ([0x0EA2#16, 0x0F00, 0x0F02, 0x0FA0].all fun v => stackOk (State.reset.setSp v) ∧ 0x0EA0 < (State.reset.setSp v).sp.toNat) ∧
    see (exec (.cls 0x0) (((State.reset.setSp 0x0F02).hostWrite 0xF00 0x03).hostWrite 0xEFE 0x04))
      (fun t => see (exec (.ret 0x0) t) (fun u => (u.pc, u.sp))) = some (some (0x0000, 0x0F00)) ∧
    see (exec (.cls 0x0) (((State.reset.setSp 0x0F00).hostWrite 0xF00 0x03).hostWrite 0xEFE 0x04))
      (fun t => see (exec (.ret 0x0) t) (fun u => (u.pc, u.sp))) = some (some (0x0400, 0x0EFE)) := by decide

/-- OnlyRndSamplesTheRandomSource: an instruction that is not RND. -/
theorem witness_not_rnd : ∀ x kk, Instr.drw 0x015 ≠ .rnd x kk := fun _ _ h => by cases h

/-- PixelsAreTheBitsOfTheDisplay: the first and the last bit, of the first and the last byte. -/
theorem witness_bits : (0 < 8 ∧ pixelByte 0 0 = 0) ∧ (7 < 8 ∧ pixelByte 63 31 = 255) := by decide

end Sys2Proof.Tests
end

section
/-! The parameters (spec/00_scope.md rule R4) are written by no handler, no event, and so by no sequence of events. -/

namespace Sys2Proof.Machine

/-- A handler that answers a next state leaves the parameters as they were. -/
theorem exec_next_cfg {i : Instr} {s t : State} (h : exec i s = .next t) : t.cfg = s.cfg := by
  cases i
  case call nnn =>
    obtain ⟨_, _, _, rfl⟩ := execCall_next (nnn := nnn) (s := s) h
    rfl
  case ret =>
    obtain ⟨_, _, _, rfl⟩ := execRet_next (s := s) h
    rfl
  case drw | keyop | misc =>
    obtain rfl := Host.Outcome.next.inj h
    exact State.placeholder_cfg s
  all_goals
    obtain rfl := Host.Outcome.next.inj h
    rfl

theorem step_next_cfg {s t : State} (h : step s = .next t) : t.cfg = s.cfg := by
  obtain ⟨_, _, _, _, hexec⟩ := step_next h
  exact (exec_next_cfg hexec).trans (State.beginStep_cfg s)

@[simp] theorem stepEvent_cfg (s : State) : s.stepEvent.1.cfg = s.cfg := by
  cases h : step s with
  | next t => rw [stepEvent_of_next h, step_next_cfg h]
  | fault f => rw [stepEvent_of_fault h, State.setFailed_cfg]
  | refused r => simp only [State.stepEvent, h]

@[simp] theorem applyEvent_cfg (s : State) (e : Event) : (applyEvent s e).1.cfg = s.cfg := by
  cases e with
  | reset => exact resetEvent_cfg s
  | step => exact stepEvent_cfg s
  | tick => exact State.setTimers_cfg ..
  | hostWrite a b => exact State.setMem_cfg ..
  | hostRead a => rfl

/-- What every event keeps holds after every sequence of events: the induction over the events, once for all invariants. -/
theorem runEvents_keeps {P : State → Prop} (hkeeps : ∀ s e, P s → P (applyEvent s e).1) (es : List Event) {s : State}
    (hs : P s) : P (runEvents es s) := by
  induction es generalizing s with
  | nil => exact hs
  | cons e rest ih => exact ih (hkeeps s e hs)

/-- Settles O51: no event writes the parameters, whichever way a step event ends. -/
theorem parametersNeverChange : Obligations.ParametersNeverChange := by
  intro es s
  have hkeeps : ∀ t e, t.cfg = s.cfg → (applyEvent t e).1.cfg = s.cfg := fun t e ht => (applyEvent_cfg t e).trans ht
  exact runEvents_keeps hkeeps es rfl

end Sys2Proof.Machine
end

section
/-! The invariant (spec/10_state.md rule R18) is kept by every handler, so by every step, so by every sequence of events. -/

namespace Sys2Proof.Machine

/-- A CALL below `STACK_TOP` leaves room for one more frame, and a RET above `STACK_BOTTOM` takes one away. -/
theorem exec_keeps_inv {i : Instr} {s t : State} (hs : Inv s) (h : exec i s = .next t) : Inv t := by
  obtain ⟨hwf, hlo, hhi, heven⟩ := hs
  have htop := stackTop_bounds s.cfg
  unfold Inv stackOk
  rw [exec_next_cfg h]
  rcases exec_next_cases h with ⟨hmem, hsp⟩ | ⟨hmem, hsp⟩ | ⟨hfull, _, hin, hsp, hmem⟩ | ⟨_, hin, _, hsp, hmem⟩
  · rw [hmem, hsp]
    exact ⟨hwf, hlo, hhi, heven⟩
  · rw [hmem, hsp]
    exact ⟨Memory.wf_zeroRange hwf _ _, hlo, hhi, heven⟩
  · have hbelow : s.sp.toNat + 1 < memSize := by simp only [memSize]; omega
    have hspNat : (s.sp + 2).toNat = s.sp.toNat + 2 := by bv_omega
    rw [hmem, hsp, hspNat]
    exact ⟨Memory.wf_write (Memory.wf_write hwf (by omega) _) hbelow _, by omega, by omega, by omega⟩
  · have hspNat : (s.sp - 2).toNat = s.sp.toNat - 2 := by bv_omega
    rw [hmem, hsp, hspNat]
    exact ⟨hwf, by omega, by omega, by omega⟩

theorem beginStep_inv {s : State} (hs : Inv s) : Inv s.beginStep := hs

/-- Settles O39: a step runs one handler, on the state whose status output alone has changed. -/
theorem everyStepKeepsTheInvariant : Obligations.EveryStepKeepsTheInvariant := by
  intro s t hs h
  obtain ⟨_, _, _, _, hexec⟩ := step_next h
  exact exec_keeps_inv (beginStep_inv hs) hexec

theorem stepEvent_keeps_inv {s : State} (hs : Inv s) : Inv s.stepEvent.1 := by
  cases h : step s with
  | next t => rw [stepEvent_of_next h]; exact everyStepKeepsTheInvariant s t hs h
  | fault f => rw [stepEvent_of_fault h]; exact hs
  | refused r => simp only [State.stepEvent, h]; exact hs

/-- Settles O38: memory is empty and `sp` is `STACK_BOTTOM`. -/
theorem invariantHoldsAtReset : Obligations.InvariantHoldsAtReset := by
  unfold Obligations.InvariantHoldsAtReset
  decide

/-- The reset event keeps the parameters, and `STACK_BOTTOM` is below every admissible `STACK_TOP`. -/
theorem resetEvent_inv (s : State) : Inv s.resetEvent := by
  have htop := stackTop_bounds s.cfg
  have hsp : s.resetEvent.sp.toNat = 0x0EA0 := rfl
  unfold Inv stackOk
  rw [resetEvent_cfg, hsp]
  exact ⟨Memory.wf_nil, by omega, by omega, by omega⟩

theorem applyEvent_keeps_inv (s : State) (e : Event) (hs : Inv s) : Inv (applyEvent s e).1 := by
  cases e with
  | reset => exact resetEvent_inv s
  | step => exact stepEvent_keeps_inv hs
  | tick => exact hs
  | hostWrite a b =>
    obtain ⟨hwf, hstack⟩ := hs
    exact ⟨Memory.wf_write hwf a.isLt b, hstack⟩
  | hostRead a => exact hs

/-- Settles O40: by induction over the events, each of which keeps the invariant. -/
theorem everyRunKeepsTheInvariant : Obligations.EveryRunKeepsTheInvariant :=
  fun es _ hs => runEvents_keeps applyEvent_keeps_inv es hs

/-! Under the stack invariant the region checks of CALL and RET pass once the full or the empty test has (R47, D17). -/

theorem execCall_ne_accessViolation {s : State} (hs : stackOk s) (nnn : Addr) (a : Int) :
    execCall nnn s ≠ .fault (.accessViolation a) := by
  obtain ⟨hlo, hhi, heven⟩ := hs
  have htop := stackTop_bounds s.cfg
  rw [execCall_eq]
  by_cases hfull : s.sp = stackTop s.cfg
  · simp [hfull]
  · have hne : s.sp.toNat ≠ (stackTop s.cfg).toNat := fun h => hfull (BitVec.eq_of_toNat_eq h)
    rw [if_neg hfull, if_pos (by omega), if_pos (by omega)]
    simp

theorem execRet_ne_accessViolation {s : State} (hs : stackOk s) (a : Int) :
    execRet s ≠ .fault (.accessViolation a) := by
  obtain ⟨hlo, hhi, heven⟩ := hs
  rw [execRet_eq]
  by_cases hempty : s.sp = stackBottom
  · simp [hempty]
  · have hne : s.sp.toNat ≠ 0x0EA0 := fun h => hempty (BitVec.eq_of_toNat_eq h)
    rw [if_neg hempty, if_pos (by omega), if_pos (by omega)]
    simp

/-- Settles O41: the fetch succeeds, and only CALL and RET could still raise it. -/
theorem noAccessViolationFromAGoodStack : Obligations.NoAccessViolationFromAGoodStack := by
  intro s hs hpc a h
  rw [step_eq, if_pos hpc] at h
  split at h
  · rcases exec_fault_cases h with ⟨nnn, _, hcall⟩ | ⟨_, _, hret⟩
    · exact execCall_ne_accessViolation (s := s.beginStep) hs nnn a hcall
    · exact execRet_ne_accessViolation (s := s.beginStep) hs a hret
  · cases h

end Sys2Proof.Machine
end

section
/-! Non-interference: what a handler does not read it does not depend on, and what it does not write it leaves. -/

namespace Sys2Proof.Machine

/-- `f` changes nothing that a handler other than LD I and RND reads, and every update such a handler makes can be made
before it or after it. -/
structure Unseen (f : State → State) : Prop where
  mem : ∀ s, (f s).mem = s.mem
  regs : ∀ s, (f s).regs = s.regs
  pc : ∀ s, (f s).pc = s.pc
  sp : ∀ s, (f s).sp = s.sp
  cfg : ∀ s, (f s).cfg = s.cfg
  setMem : ∀ s m, (f s).setMem m = f (s.setMem m)
  setRegs : ∀ s r, (f s).setRegs r = f (s.setRegs r)
  setPc : ∀ s v, (f s).setPc v = f (s.setPc v)
  setSp : ∀ s v, (f s).setSp v = f (s.setSp v)
  setStatus : ∀ s v, (f s).setStatus v = f (s.setStatus v)
  setUnimplSeen : ∀ s v, (f s).setUnimplSeen v = f (s.setUnimplSeen v)

theorem unseen_setTimers (d e : Byte) : Unseen (fun s => s.setTimers d e) := by
  constructor <;> intros <;> rfl

theorem unseen_setI (v : Word) : Unseen (fun s => s.setI v) := by
  constructor <;> intros <;> rfl

theorem unseen_setDraws (n : Nat) : Unseen (fun s => s.setDraws n) := by
  constructor <;> intros <;> rfl

section Shared

/-! The shared operations under such a change. -/

variable {f : State → State} (hf : Unseen f) (s : State)

include hf

theorem Unseen.getV (r : Reg) : (f s).getV r = s.getV r := by
  simp only [State.getV, hf.regs]

theorem Unseen.setV (r : Reg) (v : Byte) : (f s).setV r v = f (s.setV r v) := by
  simp only [State.setV, hf.regs, hf.setRegs]

theorem Unseen.advance : (f s).advance = f s.advance := by
  simp only [State.advance, hf.pc, hf.setPc]

theorem Unseen.skipIf (c : Bool) : (f s).skipIf c = f (s.skipIf c) := by
  simp only [State.skipIf, hf.pc, hf.setPc]

theorem Unseen.writeResult (x : Reg) (v : Byte) : (f s).writeResult x v = f (s.writeResult x v) := by
  simp only [State.writeResult, hf.setV, hf.advance]

theorem Unseen.writeFlagged (x : Reg) (flag v : Byte) : (f s).writeFlagged x flag v = f (s.writeFlagged x flag v) := by
  simp only [State.writeFlagged, hf.setV, hf.advance]

theorem Unseen.offsetOperand (nnn : Addr) : offsetOperand (f s) nnn = offsetOperand s nnn := by
  simp only [Machine.offsetOperand, hf.getV]

theorem Unseen.placeholder : (f s).placeholder = f s.placeholder := by
  unfold State.placeholder
  cases h : s.cfg.unimplAdvancesPc <;> simp [hf.cfg, h, hf.setStatus, hf.setUnimplSeen, hf.advance]

theorem Unseen.execCall (nnn : Addr) : execCall nnn (f s) = mapNext f (execCall nnn s) := by
  simp only [execCall_eq, hf.mem, hf.pc, hf.sp, hf.cfg, hf.setMem, hf.setSp, hf.setPc]
  split_ifs <;> rfl

theorem Unseen.execRet : execRet (f s) = mapNext f (execRet s) := by
  simp only [execRet_eq, hf.mem, hf.pc, hf.sp, hf.cfg, hf.setSp, hf.setPc]
  split_ifs <;> rfl

/-- Every handler but LD I and RND answers as it does without the change, and the change is in its next state. -/
theorem Unseen.exec {i : Instr} (hldI : ∀ nnn, i = .ldI nnn → exec i (f s) = mapNext f (exec i s))
    (hrnd : ∀ x kk, i = .rnd x kk → exec i (f s) = mapNext f (exec i s)) :
    exec i (f s) = mapNext f (exec i s) := by
  cases i
  case ldI nnn => exact hldI nnn rfl
  case rnd x kk => exact hrnd x kk rfl
  case call nnn => exact hf.execCall s nnn
  case ret => exact hf.execRet s
  case cls => simp only [Machine.exec, execCls, mapNext, hf.mem, hf.setMem, hf.advance]
  case jp | jpV0 => simp only [Machine.exec, execJp, execJpV0, mapNext, hf.offsetOperand, hf.setPc]
  case drw | keyop | misc => simp only [Machine.exec, execDrw, execKeyop, execMisc, mapNext, hf.placeholder]
  case seImm | sneImm | seReg | sneReg =>
    simp only [Machine.exec, execSeImm, execSneImm, execSeReg, execSneReg, mapNext, hf.getV, hf.skipIf]
  case addReg | subReg | shr | subnReg =>
    simp only [Machine.exec, execAddReg, execSubReg, execShr, execSubnReg, mapNext, hf.getV, hf.writeFlagged]
  all_goals
    simp only [Machine.exec, execLdImm, execAddImm, execLdReg, execOrReg, execAndReg, execXorReg, mapNext, hf.getV,
      hf.writeResult]

end Shared

/-- Settles O42: the timers are unseen, by LD I and RND too. -/
theorem noInstructionReadsOrWritesTheTimers : Obligations.NoInstructionReadsOrWritesTheTimers := by
  intro i s d e
  refine (unseen_setTimers d e).exec s ?_ ?_
  · rintro nnn rfl
    rfl
  · rintro x kk rfl
    rfl

/-- Settles O50: the count of draws is unseen by every handler but RND. -/
theorem onlyRndSamplesTheRandomSource : Obligations.OnlyRndSamplesTheRandomSource := by
  intro i s n hi
  refine (unseen_setDraws n).exec s ?_ (fun x kk h => absurd h (hi x kk))
  rintro nnn rfl
  rfl

@[simp] theorem addrOperand_toNat (nnn : Addr) : (addrOperand nnn).toNat = nnn.toNat := by
  have := nnn.isLt
  simp only [addrOperand, BitVec.toNat_setWidth]
  omega

theorem exec_next_ireg {i : Instr} {s t : State} (h : exec i s = .next t) :
    t.ireg = s.ireg ∨ ∃ nnn, i = .ldI nnn ∧ t.ireg = addrOperand nnn := by
  cases i
  case ldI nnn =>
    obtain rfl := Host.Outcome.next.inj h
    exact .inr ⟨nnn, rfl, rfl⟩
  case call nnn =>
    obtain ⟨_, _, _, rfl⟩ := execCall_next (nnn := nnn) (s := s) h
    exact .inl rfl
  case ret =>
    obtain ⟨_, _, _, rfl⟩ := execRet_next (s := s) h
    exact .inl rfl
  case drw | keyop | misc =>
    obtain rfl := Host.Outcome.next.inj h
    exact .inl (State.placeholder_ireg s)
  all_goals
    obtain rfl := Host.Outcome.next.inj h
    exact .inl rfl

/-- Settles O44: LD I writes its 12-bit operand over whatever `I` held; to every other handler `I` is unseen. -/
theorem onlyLdIWritesTheAddressRegister : Obligations.OnlyLdIWritesTheAddressRegister := by
  refine ⟨fun i s t h => ?_, fun _ _ _ => rfl, fun i s v hi => ?_⟩
  · rcases exec_next_ireg h with hsame | ⟨nnn, hi, hnew⟩
    · exact ⟨.inl hsame, fun hs => hsame ▸ hs⟩
    · have hnat : t.ireg.toNat = nnn.toNat := by rw [hnew, addrOperand_toNat]
      exact ⟨.inr ⟨nnn, hi, hnat⟩, fun _ => hnat ▸ nnn.isLt⟩
  · refine (unseen_setI v).exec s (fun nnn h => absurd h (hi nnn)) ?_
    rintro x kk rfl
    rfl

end Sys2Proof.Machine
end

section
/-! What each handler writes: bytes of memory (R40), general registers (R10, R13), `pc` (R17), the status output and the mark of
a placeholder (R25). -/

namespace Sys2Proof.Machine

/-! Memory. -/

theorem exec_next_mem {i : Instr} {s t : State} (h : exec i s = .next t) :
    t.mem = s.mem ∨
    (∃ nnn, i = .call nnn ∧ t.mem = (s.mem.write s.sp.toNat (hiByte (frameWord (s.pc + 2)))).write (s.sp.toNat + 1)
      (loByte (frameWord (s.pc + 2)))) ∨
    (∃ ign, i = .cls ign ∧ t.mem = s.mem.zeroRange displayStart displayBytes) := by
  cases i
  case cls ign =>
    obtain rfl := Host.Outcome.next.inj h
    exact .inr (.inr ⟨ign, rfl, rfl⟩)
  case call nnn =>
    obtain ⟨_, _, _, rfl⟩ := execCall_next (nnn := nnn) (s := s) h
    exact .inr (.inl ⟨nnn, rfl, State.setPc_mem ..⟩)
  case ret =>
    obtain ⟨_, _, _, rfl⟩ := execRet_next (s := s) h
    exact .inl rfl
  case drw | keyop | misc =>
    obtain rfl := Host.Outcome.next.inj h
    exact .inl (State.placeholder_mem s)
  all_goals
    obtain rfl := Host.Outcome.next.inj h
    exact .inl rfl

/-- Settles O45: outside the two bytes of the frame and the display, CALL and CLS leave every byte as it was. -/
theorem onlyCallAndClsWriteMemory : Obligations.OnlyCallAndClsWriteMemory := by
  intro i s t a h hne
  rcases exec_next_mem h with hmem | ⟨nnn, hi, hmem⟩ | ⟨ign, hi, hmem⟩
  · exact absurd (by rw [hmem]) hne
  · refine .inl ⟨nnn, hi, ?_⟩
    by_contra hout
    apply hne
    rw [hmem, Memory.read_write, Memory.read_write, if_neg (by omega), if_neg (by omega)]
  · refine .inr ⟨ign, hi, ?_⟩
    by_contra hout
    apply hne
    rw [hmem, Memory.read_zeroRange, if_neg (by simp only [displayStart, displayBytes]; omega)]

/-! General registers. -/

theorem flagByte_toNat (b : Bool) : (flagByte b).toNat = if b then 1 else 0 := by
  cases b <;> rfl

theorem flagByte_le (b : Bool) : (flagByte b).toNat ≤ 1 := by
  cases b <;> decide

theorem wideSum_toNat (a b : Byte) : (wideSum a b).toNat = a.toNat + b.toNat := by
  simp only [wideSum, BitVec.toNat_add, BitVec.toNat_setWidth]
  omega

theorem carryFlag_toNat (a b : Byte) : (carryFlag a b).toNat = if 0xFF < a.toNat + b.toNat then 1 else 0 := by
  simp [carryFlag, flagByte_toNat, BitVec.lt_def, wideSum_toNat]

theorem greaterFlag_toNat (a b : Byte) : (greaterFlag a b).toNat = if b.toNat < a.toNat then 1 else 0 := by
  simp [greaterFlag, flagByte_toNat, BitVec.lt_def]

theorem lowBitFlag_toNat (a : Byte) : (lowBitFlag a).toNat = a.toNat % 2 := by
  rw [lowBitFlag, flagByte_toNat, BitVec.getLsbD, Nat.testBit_zero]
  rcases Nat.mod_two_eq_zero_or_one a.toNat with h | h <;> simp [h]

/-- A handler writes no general register, its destination alone, or `VF` and then its destination (R100); the flag is the number
of R13's table. -/
theorem exec_next_getV {i : Instr} {s t : State} (h : exec i s = .next t) :
    (destReg i = none ∧ flagWritten s i = none ∧ ∀ r, t.getV r = s.getV r) ∨
    (∃ x v, destReg i = some x ∧ flagWritten s i = none ∧ ∀ r, t.getV r = if r = x then v else s.getV r) ∨
    (∃ x b v, destReg i = some x ∧ flagWritten s i = some (flagByte b).toNat ∧
      ∀ r, t.getV r = if r = x then v else if r = 0xF#4 then flagByte b else s.getV r) := by
  cases i
  case call nnn =>
    obtain ⟨_, _, _, rfl⟩ := execCall_next (nnn := nnn) (s := s) h
    exact .inl ⟨rfl, rfl, fun _ => rfl⟩
  case ret =>
    obtain ⟨_, _, _, rfl⟩ := execRet_next (s := s) h
    exact .inl ⟨rfl, rfl, fun _ => rfl⟩
  case drw | keyop | misc =>
    obtain rfl := Host.Outcome.next.inj h
    exact .inl ⟨rfl, rfl, State.placeholder_getV s⟩
  case cls | jp | jpV0 | ldI | seImm | sneImm | seReg | sneReg =>
    obtain rfl := Host.Outcome.next.inj h
    exact .inl ⟨rfl, rfl, fun _ => rfl⟩
  case addReg x y =>
    obtain rfl := Host.Outcome.next.inj h
    exact .inr (.inr ⟨x, _, _, rfl, congrArg some (carryFlag_toNat ..).symm, fun r => State.writeFlagged_getV ..⟩)
  case subReg x y =>
    obtain rfl := Host.Outcome.next.inj h
    exact .inr (.inr ⟨x, _, _, rfl, congrArg some (greaterFlag_toNat ..).symm, fun r => State.writeFlagged_getV ..⟩)
  case shr x _ =>
    obtain rfl := Host.Outcome.next.inj h
    exact .inr (.inr ⟨x, _, _, rfl, congrArg some (lowBitFlag_toNat _).symm, fun r => State.writeFlagged_getV ..⟩)
  case subnReg x y =>
    obtain rfl := Host.Outcome.next.inj h
    exact .inr (.inr ⟨x, _, _, rfl, congrArg some (greaterFlag_toNat ..).symm, fun r => State.writeFlagged_getV ..⟩)
  case ldImm x _ | addImm x _ | ldReg x _ | orReg x _ | andReg x _ | xorReg x _ | rnd x _ =>
    obtain rfl := Host.Outcome.next.inj h
    exact .inr (.inl ⟨x, _, rfl, rfl, fun r => State.writeResult_getV ..⟩)

/-- Settles O46, by what each handler writes: no register, the destination, or `VF` and then the destination. -/
theorem registersChangeOnlyAsDestinationOrFlag : Obligations.RegistersChangeOnlyAsDestinationOrFlag := by
  intro i s t h
  rcases exec_next_getV h with ⟨_, hflag, hregs⟩ | ⟨x, v, hdest, hflag, hregs⟩ | ⟨x, b, v, hdest, hflag, hregs⟩
  · exact ⟨fun r hr => absurd (hregs r) hr, fun _ hw => by simp [hflag] at hw⟩
  · refine ⟨fun r hr => .inl ?_, fun _ hw => by simp [hflag] at hw⟩
    by_contra hne
    rw [hdest, Option.some_inj] at hne
    exact hr (by rw [hregs, if_neg (Ne.symm hne)])
  · refine ⟨fun r hr => ?_, fun w hw hx => ?_⟩
    · by_contra hout
      simp only [hdest, hflag, Option.some_inj, Option.isSome_some, and_true, not_or] at hout
      obtain ⟨hx, hF⟩ := hout
      exact hr (by rw [hregs, if_neg (Ne.symm hx), if_neg hF])
    · have hF : (0xF#4 : Reg) ≠ x := fun e => hx (by rw [hdest, e])
      have hw : (flagByte b).toNat = w := by simpa [hflag] using hw
      rw [hregs, if_neg hF, if_pos rfl]
      exact ⟨hw, hw ▸ flagByte_le b⟩

/-! The program counter. -/

theorem offsetOperand_toNat (s : State) (nnn : Addr) :
    (offsetOperand s nnn).toNat = nnn.toNat + (s.getV 0x0#4).toNat := by
  have := nnn.isLt
  have := (s.getV 0x0#4).isLt
  simp only [offsetOperand, BitVec.toNat_add, addrOperand_toNat, BitVec.toNat_setWidth]
  omega

/-- Below 0x0FFF neither `pc + 2` nor `pc + 4` wraps. -/
theorem toNat_add_two {p : Word} (h : p.toNat ≤ 0x0FFE) : (p + 2).toNat = p.toNat + 2 := by
  bv_omega

theorem toNat_add_four {p : Word} (h : p.toNat ≤ 0x0FFE) : (p + 4).toNat = p.toNat + 4 := by
  bv_omega

theorem skipIf_pc_toNat {s : State} (h : s.pc.toNat ≤ 0x0FFE) (c : Bool) :
    (s.skipIf c).pc.toNat = if c then s.pc.toNat + 4 else s.pc.toNat + 2 := by
  rw [State.skipIf_pc]
  split
  · exact toNat_add_four h
  · exact toNat_add_two h

theorem placeholder_pc_toNat {s : State} (h : s.pc.toNat ≤ 0x0FFE) :
    s.placeholder.pc.toNat = if s.cfg.unimplAdvancesPc then s.pc.toNat + 2 else s.pc.toNat := by
  rw [State.placeholder_pc]
  split
  · exact toNat_add_two h
  · rfl

theorem exec_next_pc {i : Instr} {s t : State} (hpc : s.pc.toNat ≤ 0x0FFE) (h : exec i s = .next t) :
    t.pc.toNat = pcAfter s i := by
  cases i
  case call nnn =>
    obtain ⟨_, _, _, rfl⟩ := execCall_next (nnn := nnn) (s := s) h
    exact addrOperand_toNat nnn
  case ret =>
    obtain ⟨_, hin, _, rfl⟩ := execRet_next (s := s) h
    have hsucc : s.sp.toNat - 1 = s.sp.toNat - 2 + 1 := by omega
    rw [State.setPc_pc, hsucc]
    exact wordAt_eq s _
  case jp nnn =>
    obtain rfl := Host.Outcome.next.inj h
    exact addrOperand_toNat nnn
  case jpV0 nnn =>
    obtain rfl := Host.Outcome.next.inj h
    exact offsetOperand_toNat s nnn
  case seImm | sneImm | seReg | sneReg =>
    obtain rfl := Host.Outcome.next.inj h
    refine (skipIf_pc_toNat hpc _).trans ?_
    simp [pcAfter]
  case drw | keyop | misc =>
    obtain rfl := Host.Outcome.next.inj h
    exact placeholder_pc_toNat hpc
  all_goals
    obtain rfl := Host.Outcome.next.inj h
    exact toNat_add_two hpc

theorem pcAfter_le {i : Instr} {s : State} (hpc : s.pc.toNat ≤ 0x0FFE) (hret : ∀ ign, i ≠ .ret ign) :
    pcAfter s i ≤ 0x10FE := by
  cases i
  case ret ign => exact absurd rfl (hret ign)
  case jp nnn | call nnn =>
    have := nnn.isLt
    simp only [pcAfter]
    omega
  case jpV0 nnn =>
    have := nnn.isLt
    have := (s.getV 0x0#4).isLt
    simp only [pcAfter]
    omega
  case seImm | sneImm | seReg | sneReg | drw | keyop | misc =>
    simp only [pcAfter]
    split <;> omega
  all_goals
    simp only [pcAfter]
    omega

/-- Settles O47, from the table's number and its bound. -/
theorem pcFollowsTheTableOfTheSpec : Obligations.PcFollowsTheTableOfTheSpec := by
  intro i s t hpc h
  have hnew := exec_next_pc hpc h
  exact ⟨hnew, fun hret => hnew ▸ pcAfter_le hpc hret⟩

/-! The status output and the mark of a placeholder. -/

/-- The three instructions of families D, E and F (R122, R123, R124). -/
def isPlaceholder : Instr → Bool
  | .drw _ | .keyop _ | .misc _ => true
  | _ => false

theorem exec_next_status {i : Instr} {s t : State} (h : exec i s = .next t) :
    t.status = (if isPlaceholder i then .unimplemented else s.status) ∧
      t.unimplSeen = (s.unimplSeen || isPlaceholder i) := by
  cases i
  case call nnn =>
    obtain ⟨_, _, _, rfl⟩ := execCall_next (nnn := nnn) (s := s) h
    exact ⟨rfl, (Bool.or_false _).symm⟩
  case ret =>
    obtain ⟨_, _, _, rfl⟩ := execRet_next (s := s) h
    exact ⟨rfl, (Bool.or_false _).symm⟩
  case drw | keyop | misc =>
    obtain rfl := Host.Outcome.next.inj h
    exact ⟨State.placeholder_status s, (State.placeholder_unimplSeen s).trans (Bool.or_true _).symm⟩
  all_goals
    obtain rfl := Host.Outcome.next.inj h
    exact ⟨rfl, (Bool.or_false _).symm⟩

/-- In the handler table the placeholders are the rows whose keys are 0xD000 or more (R64). -/
theorem handlerTable_isPlaceholder :
    ∀ r ∈ handlerTable, ∀ w, isPlaceholder (r.build w) = decide (0xD000 ≤ r.key.toNat) := by
  simp [handlerTable, handlersLow, handlersAlu, handlersHigh, isPlaceholder]

theorem decodeWord_isPlaceholder {w : Word} {i : Instr} (h : decodeWord w = .ok i) :
    isPlaceholder i = true ↔ 0xD ≤ w.toNat / 4096 := by
  unfold decodeWord at h
  split at h
  · rename_i r hfind
    obtain rfl := Except.ok.inj h
    have hkey : r.key = dispatchKey w := by simpa using List.find?_some hfind
    rw [handlerTable_isPlaceholder r (List.mem_of_find?_eq_some hfind), decide_eq_true_iff, hkey, dispatchKey_toNat]
    split_ifs <;> omega
  · cases h

/-- Settles O35: a step runs the handler of the word at `pc`, with the status output at EXECUTED. -/
theorem statusIsUnimplementedExactlyForPlaceholders : Obligations.StatusIsUnimplementedExactlyForPlaceholders := by
  intro s t h
  obtain ⟨w, i, hfetch, hdecode, hexec⟩ := step_next h
  have hw : w.toNat = s.wordAt s.pc.toNat := by
    rw [fetch_eq] at hfetch
    split at hfetch
    · rw [← Except.ok.inj hfetch, wordAt_eq]
    · cases hfetch
  obtain ⟨hstatus, hseen⟩ := exec_next_status hexec
  rw [← hw, ← decodeWord_isPlaceholder hdecode, hstatus, hseen]
  cases isPlaceholder i <;> simp

end Sys2Proof.Machine
end

section
/-! Reset, and the host's accesses. -/

namespace Sys2Proof.Machine

/-- Settles O52, field by field. -/
theorem resetLeavesTheValuesOfTheSpec : Obligations.ResetLeavesTheValuesOfTheSpec := by
  refine ⟨Memory.read_nil, fun r => ?_, rfl, rfl, rfl, rfl, rfl⟩
  simp [State.getV, State.reset]

/-- Settles O55, by the law of a write to memory. -/
theorem hostReadReturnsTheLatestWrite : Obligations.HostReadReturnsTheLatestWrite := by
  intro s a c b
  simp only [applyEvent, State.hostRead, State.hostWrite, State.setMem_mem, Memory.read_write, BitVec.toNat_inj]

end Sys2Proof.Machine
end

section
/-! The bytes that the stack and the display share (spec/20_memory.md rule R48, D15): a CLS between a CALL and its RET. -/

namespace Sys2Proof.Machine

/-- CLS completes from every state; what it does to memory and to the fields a RET checks (R120). -/
theorem exec_cls_clears_display (ign : BitVec 4) (s : State) :
    ∃ t, exec (.cls ign) s = .next t ∧ t.mem = s.mem.zeroRange displayStart displayBytes ∧ t.sp = s.sp ∧ t.cfg = s.cfg :=
  ⟨_, rfl, rfl, rfl, rfl⟩

/-- A good stack with a frame on it: RET completes, and the popped word in full is the next `pc` (R80). -/
theorem exec_ret_of_good_stack {s : State} (hs : stackOk s) (hframe : 0x0EA0 < s.sp.toNat) (ign : BitVec 4) :
    ∃ t, exec (.ret ign) s = .next t ∧ t.sp.toNat = s.sp.toNat - 2 ∧ t.pc.toNat = s.wordAt (s.sp.toNat - 2) := by
  obtain ⟨hlo, hhi, heven⟩ := hs
  have hne : s.sp ≠ stackBottom := fun h => by simp [h] at hframe
  have hsucc : s.sp.toNat - 1 = s.sp.toNat - 2 + 1 := by omega
  refine ⟨(s.setSp (s.sp - 2)).setPc (joinBytes (s.mem.read (s.sp.toNat - 2)) (s.mem.read (s.sp.toNat - 1))), ?_, ?_, ?_⟩
  · rw [exec_ret, execRet_eq, if_neg hne, if_pos (by omega), if_pos (by omega)]
  · rw [State.setPc_sp, State.setSp_sp]
    bv_omega
  · rw [State.setPc_pc, hsucc, wordAt_eq]

/-- Both bytes of a word at an even address are display bytes, or neither is (R20, R120). -/
theorem wordAt_of_cleared_display {s t : State} (hmem : t.mem = s.mem.zeroRange displayStart displayBytes) {a : Nat}
    (heven : a % 2 = 0) (ha : a < memSize) : t.wordAt a = if displayStart ≤ a then 0 else s.wordAt a := by
  have hstart : displayStart = 0x0F00 := rfl
  have hbytes : displayBytes = 0x0100 := rfl
  have hsize : memSize = 0x1000 := rfl
  simp only [State.wordAt, hmem, Memory.read_zeroRange]
  by_cases hdisplay : displayStart ≤ a
  · rw [if_pos (by omega), if_pos (by omega), if_pos hdisplay]
    rfl
  · rw [if_neg (by omega), if_neg (by omega), if_neg hdisplay]

/-- Settles O49: CLS keeps `sp` and the parameters, so the RET completes, and the frame it pops lies in the display exactly if
`sp` was above 0x0F00. -/
theorem clsDestroysTheDeepFramesOnly : Obligations.ClsDestroysTheDeepFramesOnly := by
  intro g h s hs hframe
  obtain ⟨t, hcls, hmem, hsp, hcfg⟩ := exec_cls_clears_display g s
  have hst : stackOk t := by rwa [stackOk, hsp, hcfg]
  obtain ⟨u, hret, huSp, huPc⟩ := exec_ret_of_good_stack hst (hsp ▸ hframe) h
  rw [hsp] at huSp huPc
  refine ⟨t, u, hcls, hret, huSp, ?_⟩
  obtain ⟨_, hhi, heven⟩ := hs
  have htop := stackTop_bounds s.cfg
  have hinside : s.sp.toNat - 2 < memSize := by simp only [memSize]; omega
  have hdeep : displayStart ≤ s.sp.toNat - 2 ↔ 0x0F00 < s.sp.toNat := by simp only [displayStart]; omega
  calc u.pc.toNat
      _ = t.wordAt (s.sp.toNat - 2) := huPc
      _ = if displayStart ≤ s.sp.toNat - 2 then 0 else s.wordAt (s.sp.toNat - 2) :=
        wordAt_of_cleared_display hmem (by omega) hinside
      _ = if 0x0F00 < s.sp.toNat then 0x0000 else s.wordAt (s.sp.toNat - 2) := if_congr hdeep rfl rfl

end Sys2Proof.Machine
end

section
/-! The handler table of spec/30_encoding.md rule R64, read through the key of rule R63: the key of a word is the word under
its family's mask, the rows have distinct keys, and a word decodes by the one row that has its key. -/

namespace Sys2Proof.Machine

/-! A word and its fields (R61, R62). -/

theorem fam_append_x_append_kk (w : Word) : fieldFam w ++ fieldX w ++ fieldKk w = w := by
  apply BitVec.eq_of_toNat_eq
  simp only [toNat_append_eq, fieldFam_toNat, fieldX_toNat, fieldKk_toNat]
  omega

theorem fam_append_nibbles (w : Word) : fieldFam w ++ fieldX w ++ fieldY w ++ fieldN w = w := by
  apply BitVec.eq_of_toNat_eq
  simp only [toNat_append_eq, fieldFam_toNat, fieldX_toNat, fieldY_toNat, fieldN_toNat]
  omega

theorem fam_append_nnn (w : Word) : fieldFam w ++ fieldNnn w = w := by
  apply BitVec.eq_of_toNat_eq
  simp only [toNat_append_eq, fieldFam_toNat, fieldNnn_toNat]
  omega

/-! The key as a mask of the word (R63). -/

/-- The bits of a word of family `f` that its dispatch key keeps. -/
def keyMask (f : BitVec 4) : Word := if f = 0x0#4 then 0xF0FF#16 else if f = 0x8#4 then 0xF00F#16 else 0xF000#16

theorem and_F0FF (w : Word) : w &&& 0xF0FF#16 = fieldFam w ++ 0x0#4 ++ fieldKk w := by
  calc w &&& 0xF0FF#16
      _ = (fieldFam w ++ fieldX w ++ fieldKk w) &&& (BitVec.allOnes 4 ++ 0x0#4 ++ BitVec.allOnes 8) :=
        congrArg (· &&& 0xF0FF#16) (fam_append_x_append_kk w).symm
      _ = fieldFam w ++ 0x0#4 ++ fieldKk w := by
        simp only [BitVec.and_append, BitVec.and_allOnes, BitVec.and_zero]

theorem and_F00F (w : Word) : w &&& 0xF00F#16 = fieldFam w ++ 0x0#4 ++ 0x0#4 ++ fieldN w := by
  calc w &&& 0xF00F#16
      _ = (fieldFam w ++ fieldX w ++ fieldY w ++ fieldN w) &&& (BitVec.allOnes 4 ++ 0x0#4 ++ 0x0#4 ++ BitVec.allOnes 4) :=
        congrArg (· &&& 0xF00F#16) (fam_append_nibbles w).symm
      _ = fieldFam w ++ 0x0#4 ++ 0x0#4 ++ fieldN w := by
        simp only [BitVec.and_append, BitVec.and_allOnes, BitVec.and_zero]

theorem and_F000 (w : Word) : w &&& 0xF000#16 = fieldFam w ++ 0x0#12 := by
  calc w &&& 0xF000#16
      _ = (fieldFam w ++ fieldNnn w) &&& (BitVec.allOnes 4 ++ 0x0#12) :=
        congrArg (· &&& 0xF000#16) (fam_append_nnn w).symm
      _ = fieldFam w ++ 0x0#12 := by
        simp only [BitVec.and_append, BitVec.and_allOnes, BitVec.and_zero]

theorem and_keyMask_eq_dispatchKey (w : Word) : w &&& keyMask (fieldFam w) = dispatchKey w := by
  apply BitVec.eq_of_toNat_eq
  rw [dispatchKey_toNat, keyMask]
  simp only [← BitVec.toNat_inj, fieldFam_toNat, BitVec.reduceToNat]
  split_ifs with h0 h8
  · simp only [and_F0FF, toNat_append_eq, fieldFam_toNat, fieldKk_toNat, h0, BitVec.toNat_zero]
    omega
  · simp only [and_F00F, toNat_append_eq, fieldFam_toNat, fieldN_toNat, h8, BitVec.toNat_zero]
    omega
  · simp only [and_F000, toNat_append_eq, fieldFam_toNat, BitVec.toNat_zero]
    omega

theorem fieldFam_and (v w : Word) : fieldFam (v &&& w) = fieldFam v &&& fieldFam w := BitVec.extractLsb'_and

/-- Every mask holds the leading nibble in full. -/
theorem fieldFam_and_keyMask (w : Word) (f : BitVec 4) : fieldFam (w &&& keyMask f) = fieldFam w := by
  have hmask : fieldFam (keyMask f) = BitVec.allOnes 4 := by
    unfold keyMask
    split_ifs <;> rfl
  rw [fieldFam_and, hmask, BitVec.and_allOnes]

@[simp] theorem fieldFam_dispatchKey (w : Word) : fieldFam (dispatchKey w) = fieldFam w := by
  rw [← and_keyMask_eq_dispatchKey, fieldFam_and_keyMask]

/-! The rows. -/

theorem handlerTable_mask_pattern : ∀ r ∈ handlerTable, r.mask = keyMask (fieldFam r.key) ∧ r.pattern = r.key := by
  decide

theorem handlerTable_keys_nodup : (handlerTable.map Row.key).Nodup := by decide

theorem row_eq_of_key_eq {r q : Row} (hr : r ∈ handlerTable) (hq : q ∈ handlerTable) (h : r.key = q.key) : r = q :=
  List.inj_on_of_nodup_map handlerTable_keys_nodup hr hq h

theorem and_mask_eq_pattern_iff {r : Row} (hr : r ∈ handlerTable) (w : Word) :
    w &&& r.mask = r.pattern ↔ r.key = dispatchKey w := by
  obtain ⟨hmask, hpattern⟩ := handlerTable_mask_pattern r hr
  rw [hmask, hpattern]
  constructor
  · intro h
    have hfam : fieldFam w = fieldFam r.key := by rw [← fieldFam_and_keyMask w (fieldFam r.key), h]
    rw [← h, ← hfam, and_keyMask_eq_dispatchKey]
  · intro h
    rw [h, fieldFam_dispatchKey, and_keyMask_eq_dispatchKey]

/-- The registered keys are those of the legal words (R65, R131). -/
theorem dispatchKey_mem_keys_iff (w : Word) : dispatchKey w ∈ handlerTable.map Row.key ↔ ¬ illegalWord w := by
  have hw := w.isLt
  simp only [handlerTable, handlersLow, handlersAlu, handlersHigh, List.cons_append, List.nil_append, List.map_cons,
    List.map_nil, List.mem_cons, List.not_mem_nil, or_false, ← BitVec.toNat_inj, dispatchKey_toNat, BitVec.reduceToNat]
  split_ifs <;> omega

/-! The decoder over words (R71), by the rows. -/

theorem decodeWord_of_key {r : Row} (hr : r ∈ handlerTable) {w : Word} (hkey : r.key = dispatchKey w) :
    decodeWord w = .ok (r.build w) := by
  cases hfind : handlerTable.find? (fun q => q.key == dispatchKey w) with
  | none => exact absurd hkey (by simpa using List.find?_eq_none.mp hfind r hr)
  | some q =>
    have hq : q.key = dispatchKey w := by simpa using List.find?_some hfind
    rw [decodeWord_of_find hfind, row_eq_of_key_eq (List.mem_of_find?_eq_some hfind) hr (hq.trans hkey.symm)]

theorem decodeWord_of_unregistered {w : Word} (h : dispatchKey w ∉ handlerTable.map Row.key) :
    decodeWord w = .error (.noHandler (dispatchKey w)) := by
  have hnone : handlerTable.find? (fun r => r.key == dispatchKey w) = none := by
    simpa [List.find?_eq_none] using h
  simp only [decodeWord, hnone]

theorem decodeWord_eq_ok_iff {w : Word} {i : Instr} :
    decodeWord w = .ok i ↔ ∃ r ∈ handlerTable, r.key = dispatchKey w ∧ r.build w = i := by
  constructor
  · intro h
    by_cases hmem : dispatchKey w ∈ handlerTable.map Row.key
    · obtain ⟨r, hr, hkey⟩ := List.mem_map.mp hmem
      exact ⟨r, hr, hkey, Except.ok.inj ((decodeWord_of_key hr hkey).symm.trans h)⟩
    · rw [decodeWord_of_unregistered hmem] at h
      cases h
  · rintro ⟨r, hr, hkey, rfl⟩
    exact decodeWord_of_key hr hkey

end Sys2Proof.Machine
end

section
/-! Decode and encode are inverse to each other (spec/30_encoding.md rules R60 to R64), and which words decode. -/

namespace Sys2Proof.Machine

open Sys2Proof.Laws.KeyOfEncoding

/-! From an instruction to its word and back. -/

theorem dispatchKey_encode (i : Instr) : dispatchKey (encode i) = registeredKey i := by
  cases i
  exacts [cls _, ret _, jp _, call _, seImm _ _, sneImm _ _, seReg _ _ _, ldImm _ _, addImm _ _, ldReg _ _, orReg _ _,
    andReg _ _, xorReg _ _, addReg _ _, subReg _ _, shr _ _, subnReg _ _, sneReg _ _ _, ldI _, jpV0 _, rnd _ _, drw _,
    keyop _, misc _]

/-- The row of an instruction: it has the instruction's key, and the operand fields of the word give the instruction
back. -/
theorem exists_row_build_encode (i : Instr) :
    ∃ r ∈ handlerTable, r.key = registeredKey i ∧ r.build (encode i) = i := by
  cases i <;> simp [handlerTable, handlersLow, handlersAlu, handlersHigh, registeredKey, encode]

theorem decodeWord_encode (i : Instr) : decodeWord (encode i) = .ok i := by
  rw [decodeWord_eq_ok_iff, dispatchKey_encode]
  exact exists_row_build_encode i

/-- Settles O24: the word of an instruction selects the instruction's row, whose operand fields hold every bit that the
encoding put there. -/
theorem decodeOfEncodeIsTheInstruction : Obligations.DecodeOfEncodeIsTheInstruction := by
  intro i
  refine ⟨decodeWord_encode i, fun rest => ?_⟩
  change decode (hiByte (encode i) :: loByte (encode i) :: rest) = _
  rw [decode_pair, joinBytes_hiByte_loByte, decodeWord_encode]
  rfl

/-! From a word to its instruction and back. -/

/-- The key fixes the bits that a row's instruction does not carry. -/
theorem encode_build_of_key :
    ∀ r ∈ handlerTable, ∀ w, r.key = dispatchKey w → encode (r.build w) = w := by
  simp only [handlerTable, handlersLow, handlersAlu, handlersHigh, List.cons_append, List.nil_append,
    List.forall_mem_cons, List.not_mem_nil, false_imp_iff, implies_true, and_true]
  and_intros
  all_goals
    intro w hkey
    have hnum := congrArg BitVec.toNat hkey
    rw [dispatchKey_toNat] at hnum
    apply BitVec.eq_of_toNat_eq
    simp only [encode, toNat_append_eq, fieldX_toNat, fieldY_toNat, fieldN_toNat, fieldKk_toNat, fieldNnn_toNat,
      BitVec.reduceToNat] at hnum ⊢
    split_ifs at hnum <;> omega

/-- Settles O25: the word is that of the row with its key. -/
theorem encodeOfDecodedIsTheWord : Obligations.EncodeOfDecodedIsTheWord := by
  intro w i h
  obtain ⟨r, hr, hkey, rfl⟩ := decodeWord_eq_ok_iff.mp h
  exact encode_build_of_key r hr w hkey

/-- Settles O26: the legal words are those whose key is registered. -/
theorem decoderRejectsExactlyTheIllegalWords : Obligations.DecoderRejectsExactlyTheIllegalWords := by
  intro w
  constructor
  · intro hillegal
    exact decodeWord_of_unregistered fun hmem => (dispatchKey_mem_keys_iff w).mp hmem hillegal
  · intro hlegal
    obtain ⟨r, hr, hkey⟩ := List.mem_map.mp ((dispatchKey_mem_keys_iff w).mpr hlegal)
    exact ⟨r.build w, decodeWord_of_key hr hkey⟩

/-- Settles O27: the mask of a row is the key's mask, and no two rows have one key. -/
theorem rowsAreSelectedByMaskAndMatch : Obligations.RowsAreSelectedByMaskAndMatch := by
  intro w
  refine ⟨fun r hr => and_mask_eq_pattern_iff hr w, fun r hr q hq hrw hqw => ?_⟩
  have hrkey := (and_mask_eq_pattern_iff hr w).mp hrw
  have hqkey := (and_mask_eq_pattern_iff hq w).mp hqw
  rw [row_eq_of_key_eq hr hq (hrkey.trans hqkey.symm)]

/-- Settles O23, by running the decoder on the twenty words. -/
theorem decodesTheWordsOfTheSpec : Obligations.DecodesTheWordsOfTheSpec := by
  unfold Obligations.DecodesTheWordsOfTheSpec
  decide

/-! Words given as numbers. -/

theorem decodesTo_of_encode_toNat {n : Nat} {i : Instr} (h : (encode i).toNat = n) : decodesTo n i := by
  subst h
  rw [decodesTo, BitVec.ofNat_toNat, BitVec.setWidth_eq, decodeWord_encode]

/-- Settles O28: the word of an instruction decodes to it whatever its ignored bits, and no handler is given those bits. -/
theorem ignoredBitsChangeNothing : Obligations.IgnoredBitsChangeNothing := by
  intro g low x y s
  refine ⟨⟨?_, rfl⟩, ⟨?_, rfl⟩, ⟨?_, rfl⟩, ⟨?_, rfl⟩, ⟨?_, rfl⟩, ⟨?_, rfl⟩, ⟨?_, rfl⟩, ⟨?_, rfl⟩⟩
  all_goals
    apply decodesTo_of_encode_toNat
    simp only [encode, toNat_append_eq, BitVec.reduceToNat]
    omega

end Sys2Proof.Machine
end

section
/-! The step (spec/30_encoding.md rule R68) runs the handler of the decoded word, and no handler refuses. -/

namespace Sys2Proof.Machine

/-- R138: every handler answers a next state or an error. -/
theorem exec_ne_refused (i : Instr) (s : State) (r : Refusal) : exec i s ≠ .refused r := by
  cases i
  case call nnn =>
    rw [exec_call, execCall_eq]
    split_ifs <;> nofun
  case ret ign =>
    rw [exec_ret, execRet_eq]
    split_ifs <;> nofun
  all_goals nofun

/-- A step inside memory whose word decodes. -/
theorem step_of_decodeWord {s : State} {i : Instr} (hpc : s.pc.toNat ≤ 0x0FFE)
    (h : decodeWord (joinBytes (s.mem.read s.pc.toNat) (s.mem.read (s.pc.toNat + 1))) = .ok i) :
    step s = exec i s.beginStep := by
  rw [step_eq, if_pos hpc, h]

/-- Settles O34: a step that reaches no handler ends in the error of the fetch or of the decoder. -/
theorem noStepIsRefused : Obligations.NoStepIsRefused := by
  intro s r
  rw [step_eq]
  split
  · split
    · exact exec_ne_refused _ _ r
    · nofun
  · nofun

theorem frame_refl (written : Reg → Prop) (s : State) : frame written s s :=
  ⟨fun _ _ => rfl, fun _ => rfl, ⟨rfl, rfl, rfl⟩, rfl, rfl, rfl, rfl, rfl, rfl⟩

/-- Settles O29: two bytes decode as the word they make, which is the word the step fetches. -/
theorem stepRunsTheDecodedInstruction : Obligations.StepRunsTheDecodedInstruction := by
  intro s i hpc hdecode
  rw [decode_pair] at hdecode
  cases hword : decodeWord (joinBytes (s.mem.read s.pc.toNat) (s.mem.read (s.pc.toNat + 1))) with
  | error e => rw [hword] at hdecode; cases hdecode
  | ok j =>
    rw [hword] at hdecode
    obtain rfl : j = i := congrArg Prod.fst (Except.ok.inj hdecode)
    exact ⟨step_of_decodeWord hpc hword, State.beginStep_pc s, frame_refl noReg s.beginStep⟩

end Sys2Proof.Machine
end

section
/-! A jump or a skip writes only `pc` (spec/40_control_flow.md rules R81 and R83 to R87). -/

namespace Sys2Proof.Machine

/-! Words of each format as numbers (R62). -/

theorem toNat_addrWord (f : BitVec 4) (nnn : Addr) : (f ++ nnn).toNat = 4096 * f.toNat + nnn.toNat := by
  rw [toNat_append_eq]
  omega

theorem toNat_immWord (f x : BitVec 4) (kk : Byte) :
    (f ++ x ++ kk).toNat = 4096 * f.toNat + 256 * x.toNat + kk.toNat := by
  simp only [toNat_append_eq]
  omega

theorem toNat_nibbleWord (f x y n : BitVec 4) :
    (f ++ x ++ y ++ n).toNat = 4096 * f.toNat + 256 * x.toNat + 16 * y.toNat + n.toNat := by
  simp only [toNat_append_eq]
  omega

theorem setPc_frame (s : State) (v : Word) : frame noReg s (s.setPc v) := frame_refl noReg s

theorem skipIf_frame (s : State) (c : Bool) : frame noReg s (s.skipIf c) := setPc_frame s _

/-- The fetch of a step above 0x0FFE: the first of its two addresses that lies outside memory (R42, R134). -/
theorem step_of_pc_outside {s : State} (hpc : 0x0FFE < s.pc.toNat) :
    step s = .fault (.accessViolation (if 0x0FFF < s.pc.toNat then (s.pc.toNat : Int) else 0x1000)) := by
  rw [step_eq, if_neg (by omega)]

/-- Settles O12: a jump to `pc` writes the value that is there, and a fetch at 0x0FFF needs the byte at 0x1000. -/
theorem jpSetsThePcToItsOperand : Obligations.JpSetsThePcToItsOperand := by
  intro nnn s
  refine ⟨decodesTo_of_encode_toNat (toNat_addrWord 0x1#4 nnn), s.setPc (addrOperand nnn), rfl, addrOperand_toNat nnn,
    setPc_frame s _, fun hself => ?_, ?_⟩
  · have hpc : addrOperand nnn = s.pc := BitVec.eq_of_toNat_eq ((addrOperand_toNat nnn).trans hself)
    rw [hpc]
    rfl
  · rintro rfl
    exact step_of_pc_outside (s := s.setPc 0x0FFF) (Nat.lt_succ_self 0x0FFE)

/-- Settles O13: the sum has at most 13 bits, so the 16-bit addition does not wrap. -/
theorem jpV0AddsRegisterZeroToItsOperand : Obligations.JpV0AddsRegisterZeroToItsOperand := by
  intro nnn s
  refine ⟨decodesTo_of_encode_toNat (toNat_addrWord 0xB#4 nnn), s.setPc (offsetOperand s nnn), rfl,
    offsetOperand_toNat s nnn, setPc_frame s _, fun hpc => ?_⟩
  rw [step_of_pc_outside (by omega), if_pos hpc]

/-- Settles O14: the skip is on the equality test of the two bytes (R83). -/
theorem seImmSkipsWhenEqual : Obligations.SeImmSkipsWhenEqual := by
  intro x kk s
  refine ⟨decodesTo_of_encode_toNat (toNat_immWord 0x3#4 x kk), s.skipIf (s.getV x == kk), rfl, ?_, skipIf_frame s _⟩
  simp only [State.skipIf_pc, beq_iff_eq]

/-- Settles O15: the skip is on the inequality test of the two bytes (R84). -/
theorem sneImmSkipsWhenDifferent : Obligations.SneImmSkipsWhenDifferent := by
  intro x kk s
  refine ⟨decodesTo_of_encode_toNat (toNat_immWord 0x4#4 x kk), s.skipIf (s.getV x != kk), rfl, ?_, skipIf_frame s _⟩
  simp only [State.skipIf_pc, bne_iff_ne]

/-- Settles O16: a register equals itself. -/
theorem seRegSkipsWhenEqual : Obligations.SeRegSkipsWhenEqual := by
  intro x y ign s
  refine ⟨decodesTo_of_encode_toNat (toNat_nibbleWord 0x5#4 x y ign), s.skipIf (s.getV x == s.getV y), rfl, ?_, ?_,
    skipIf_frame s _⟩
  · simp only [State.skipIf_pc, beq_iff_eq]
  · rintro rfl
    simp

/-- Settles O17: a register does not differ from itself. -/
theorem sneRegSkipsWhenDifferent : Obligations.SneRegSkipsWhenDifferent := by
  intro x y ign s
  refine ⟨decodesTo_of_encode_toNat (toNat_nibbleWord 0x9#4 x y ign), s.skipIf (s.getV x != s.getV y), rfl, ?_, ?_,
    skipIf_frame s _⟩
  · simp only [State.skipIf_pc, bne_iff_ne]
  · rintro rfl
    simp

end Sys2Proof.Machine
end

section
/-! CALL and RET (rules R82 and R80): the answer in each case of the stack pointer. -/

namespace Sys2Proof.Machine

/-- The memory a CALL leaves: the frame of its return address at `sp` (R19, R44). -/
def callMem (s : State) : Memory :=
  (s.mem.write s.sp.toNat (hiByte (frameWord (s.pc + 2)))).write (s.sp.toNat + 1) (loByte (frameWord (s.pc + 2)))

theorem callMem_read_sp (s : State) : (callMem s).read s.sp.toNat = hiByte (frameWord (s.pc + 2)) := by
  simp [callMem]

theorem callMem_read_sp_succ (s : State) : (callMem s).read (s.sp.toNat + 1) = loByte (frameWord (s.pc + 2)) := by
  simp [callMem]

theorem callMem_read_outside (s : State) {a : Nat} (ha : a < s.sp.toNat ∨ s.sp.toNat + 2 ≤ a) :
    (callMem s).read a = s.mem.read a := by
  rw [callMem, Memory.read_write, Memory.read_write, if_neg (by omega), if_neg (by omega)]

theorem hiByte_frameWord_toNat (r : Word) : (hiByte (frameWord r)).toNat = r.toNat / 256 % 16 := by
  rw [hiByte_toNat, frameWord_toNat]
  omega

theorem loByte_frameWord_toNat (r : Word) : (loByte (frameWord r)).toNat = r.toNat % 256 := by
  rw [loByte_toNat, frameWord_toNat]
  omega

/-- Both bytes of a frame lie far inside memory, so the `sp` after a push does not wrap (R47). -/
theorem toNat_sp_add_two {s : State} (hin : inStack s.cfg (s.sp.toNat + 1)) : (s.sp + 2).toNat = s.sp.toNat + 2 := by
  have := inStack_lt hin
  bv_omega

theorem toNat_sp_sub_two {s : State} (hin : inStack s.cfg ((s.sp.toNat : Int) - 2)) :
    (s.sp - 2).toNat = s.sp.toNat - 2 := by
  bv_omega

/-- Settles O18, by the cases of `execCall_eq`. -/
theorem callPushesTheReturnAddressAndJumps : Obligations.CallPushesTheReturnAddressAndJumps := by
  intro nnn s
  have hexec := (exec_call nnn s).trans (execCall_eq nnn s)
  refine ⟨decodesTo_of_encode_toNat (toNat_addrWord 0x2#4 nnn), fun hfull => ?_, fun hroom hout => ?_,
    fun hroom hin hout => ?_, fun hroom hin hin' => ?_⟩
  · rw [hexec, if_pos hfull]
  · rw [hexec, if_neg hroom, if_neg hout]
  · rw [hexec, if_neg hroom, if_pos hin, if_neg hout]
  · rw [if_neg hroom, if_pos hin, if_pos hin'] at hexec
    have hhi := (congrArg BitVec.toNat (callMem_read_sp s)).trans (hiByte_frameWord_toNat _)
    have hlo := (congrArg BitVec.toNat (callMem_read_sp_succ s)).trans (loByte_frameWord_toNat _)
    have hsp := toNat_sp_add_two hin'
    refine ⟨_, hexec, hhi, hlo, hsp, ?_, addrOperand_toNat nnn, fun k hk => ?_, fun a => callMem_read_outside s,
      fun _ _ => rfl, ⟨rfl, rfl, rfl⟩, rfl, rfl, rfl, rfl, rfl⟩
    · rw [State.setPc_sp, State.setSp_sp, hsp]
      omega
    · rw [hk] at hhi
      exact hhi

/-- Settles O19, by the cases of `execRet_eq`. -/
theorem retPopsTheFrameIntoThePc : Obligations.RetPopsTheFrameIntoThePc := by
  intro ign s
  have hexec := (exec_ret ign s).trans (execRet_eq s)
  have hempty : s.sp = stackBottom ↔ s.sp.toNat = 0x0EA0 := by rw [← BitVec.toNat_inj, stackBottom_toNat]
  simp only [hempty] at hexec
  have hword : (encode (.ret ign)).toNat = 0x00EE + 256 * ign.toNat := by
    rw [encode, toNat_immWord, BitVec.toNat_ofNat, BitVec.toNat_ofNat]
    omega
  refine ⟨decodesTo_of_encode_toNat hword, fun hbottom => ?_, fun hframe hout => ?_, fun hframe hin hout => ?_,
    fun hframe hin hin' => ?_⟩
  · rw [hexec, if_pos hbottom]
  · rw [hexec, if_neg hframe, if_neg hout]
  · rw [hexec, if_neg hframe, if_pos hin, if_neg hout]
  · rw [if_neg hframe, if_pos hin, if_pos hin'] at hexec
    have hsucc : s.sp.toNat - 1 = s.sp.toNat - 2 + 1 := by omega
    rw [hsucc] at hexec
    exact ⟨_, hexec, wordAt_eq s _, toNat_sp_sub_two hin, fun hpc => ⟨_, step_of_pc_outside hpc⟩, fun _ => rfl,
      fun _ _ => rfl, ⟨rfl, rfl, rfl⟩, rfl, rfl, rfl, rfl, rfl⟩

end Sys2Proof.Machine
end

section
/-! A CALL, its body and its RET (rule R89): what the body keeps of the frame. -/

namespace Sys2Proof.Machine

theorem execAll_cons_eq_next_iff {i : Instr} {rest : List Instr} {s t : State} :
    execAll (i :: rest) s = .next t ↔ ∃ u, exec i s = .next u ∧ execAll rest u = .next t := by
  rw [execAll]
  cases exec i s <;> simp

theorem execAll_singleton (i : Instr) (s : State) : execAll [i] s = exec i s := by
  rw [execAll]
  cases exec i s <;> rfl

/-- A run of two lists passes through the state that the first one leaves. -/
theorem execAll_append_next {before after : List Instr} {s t : State} (h : execAll (before ++ after) s = .next t) :
    ∃ u, execAll before s = .next u ∧ execAll after u = .next t := by
  induction before generalizing s with
  | nil => exact ⟨s, rfl, h⟩
  | cons i rest ih =>
    obtain ⟨v, hv, hrest⟩ := execAll_cons_eq_next_iff.mp h
    obtain ⟨u, hu, hafter⟩ := ih hrest
    exact ⟨u, execAll_cons_eq_next_iff.mpr ⟨v, hv, hu⟩, hafter⟩

/-- Of the three instructions that are not plain, CLS leaves `sp` too. -/
theorem exec_next_sp {i : Instr} {s t : State} (hi : plainInstr i = true ∨ isCls i = true) (h : exec i s = .next t) :
    t.sp = s.sp := by
  cases i
  case call | ret => simp [plainInstr, isCls] at hi
  case drw | keyop | misc =>
    obtain rfl := Host.Outcome.next.inj h
    exact State.placeholder_sp s
  all_goals
    obtain rfl := Host.Outcome.next.inj h
    rfl

/-- `t` has the `sp` of `s` and its byte at `a`: what a body keeps of each byte of the frame below it. -/
def keepsFrameByte (a : Nat) (s t : State) : Prop := t.sp = s.sp ∧ t.mem.read a = s.mem.read a

theorem keepsFrameByte.trans {a : Nat} {s t u : State} (hst : keepsFrameByte a s t) (htu : keepsFrameByte a t u) :
    keepsFrameByte a s u :=
  ⟨htu.1.trans hst.1, htu.2.trans hst.2⟩

theorem keepsFrameByte.lt_sp {a : Nat} {s t : State} (hst : keepsFrameByte a s t) (ha : a < s.sp.toNat) :
    a < t.sp.toNat := by
  rwa [hst.1]

theorem exec_keepsFrameByte {i : Instr} {a : Nat} {s t : State} (hi : plainInstr i = true ∨ isCls i = true)
    (hcls : isCls i = true → a < displayStart) (h : exec i s = .next t) : keepsFrameByte a s t := by
  refine ⟨exec_next_sp hi h, ?_⟩
  by_contra hne
  rcases onlyCallAndClsWriteMemory i s t a h hne with ⟨nnn, rfl, _⟩ | ⟨ign, rfl, hdisplay, _⟩
  · simp [plainInstr, isCls] at hi
  · have := hcls rfl
    simp only [displayStart] at this
    omega

theorem not_isCls_of_plainInstr {i : Instr} (hi : plainInstr i = true) : ¬ isCls i = true := by
  cases i
  case cls => cases hi
  all_goals exact Bool.false_ne_true

theorem Balanced.not_isCls {body : List Instr} (hbal : Balanced body) : ∀ i ∈ body, ¬ isCls i = true := by
  induction hbal with
  | nil => nofun
  | plain hi _ ih => exact List.forall_mem_cons.mpr ⟨not_isCls_of_plainInstr hi, ih⟩
  | nested _ _ ihInner ihRest =>
    rw [List.forall_mem_cons, List.forall_mem_append, List.forall_mem_cons]
    exact ⟨Bool.false_ne_true, ihInner, Bool.false_ne_true, ihRest⟩

theorem exec_call_next_mem {nnn : Addr} {s t : State} (h : exec (.call nnn) s = .next t) : t.mem = callMem s := by
  obtain ⟨_, _, _, rfl⟩ := execCall_next (nnn := nnn) (s := s) h
  rfl

theorem exec_call_next_sp {nnn : Addr} {s t : State} (h : exec (.call nnn) s = .next t) :
    t.sp = s.sp + 2 ∧ t.sp.toNat = s.sp.toNat + 2 := by
  obtain ⟨_, _, hin, rfl⟩ := execCall_next (nnn := nnn) (s := s) h
  exact ⟨rfl, toNat_sp_add_two hin⟩

/-- The RET of a CALL takes `sp` back, and neither writes a byte below it. -/
theorem keepsFrameByte_of_call_ret {nnn : Addr} {ign : BitVec 4} {a : Nat} {s t u v : State}
    (hcall : exec (.call nnn) s = .next t) (ha : a < s.sp.toNat) (hbetween : keepsFrameByte a t u)
    (hret : exec (.ret ign) u = .next v) : keepsFrameByte a s v := by
  obtain ⟨htSp, _⟩ := exec_call_next_sp hcall
  obtain ⟨huSp, huMem⟩ := hbetween
  obtain ⟨_, _, _, rfl⟩ := execRet_next (s := u) hret
  constructor
  · rw [State.setPc_sp, State.setSp_sp, huSp, htSp, BitVec.add_sub_cancel]
  · rw [State.setPc_mem, State.setSp_mem, huMem, exec_call_next_mem hcall, callMem_read_outside s (.inl ha)]

theorem execAll_cls_keepsFrameByte {body : List Instr} {a : Nat} {s t : State} (hall : ∀ i ∈ body, isCls i = true)
    (hcls : ∀ i ∈ body, isCls i = true → a < displayStart) (h : execAll body s = .next t) : keepsFrameByte a s t := by
  induction body generalizing s with
  | nil =>
    obtain rfl := Host.Outcome.next.inj h
    exact ⟨rfl, rfl⟩
  | cons i rest ih =>
    obtain ⟨u, hi, hrest⟩ := execAll_cons_eq_next_iff.mp h
    obtain ⟨hallI, hallRest⟩ := List.forall_mem_cons.mp hall
    obtain ⟨hclsI, hclsRest⟩ := List.forall_mem_cons.mp hcls
    exact (exec_keepsFrameByte (.inr hallI) hclsI hi).trans (ih hallRest hclsRest hrest)

/-- The list without its CLS. -/
abbrev withoutCls (body : List Instr) : List Instr := body.filter (fun i => !isCls i)

/-- A list whose first instruction but for CLS is `i` runs its leading CLS, then `i`, then a rest. -/
theorem execAll_of_withoutCls_eq_cons {body after : List Instr} {i : Instr} {a : Nat} {s t : State}
    (hbody : withoutCls body = i :: after) (hcls : ∀ j ∈ body, isCls j = true → a < displayStart)
    (h : execAll body s = .next t) :
    ∃ u v rest, keepsFrameByte a s u ∧ exec i u = .next v ∧ execAll rest v = .next t ∧ withoutCls rest = after ∧
      ∀ j ∈ rest, isCls j = true → a < displayStart := by
  obtain ⟨lead, rest, rfl, hlead, _, hrest⟩ := List.filter_eq_cons_iff.mp hbody
  obtain ⟨hclsLead, hclsAfter⟩ := List.forall_mem_append.mp hcls
  obtain ⟨u, hu, hafter⟩ := execAll_append_next h
  obtain ⟨v, hv, ht⟩ := execAll_cons_eq_next_iff.mp hafter
  exact ⟨u, v, rest, execAll_cls_keepsFrameByte (by simpa using hlead) hclsLead hu, hv, ht, hrest,
    (List.forall_mem_cons.mp hclsAfter).2⟩

/-- R89: a body, balanced but for CLS, keeps a byte below `sp` that no CLS of it clears (induction over `Balanced`). -/
theorem execAll_balanced_keepsFrameByte {body : List Instr} {a : Nat} {s t : State} (hbal : Balanced (withoutCls body))
    (hcls : ∀ i ∈ body, isCls i = true → a < displayStart) (ha : a < s.sp.toNat) (h : execAll body s = .next t) :
    keepsFrameByte a s t := by
  generalize hcore : withoutCls body = core at hbal
  induction hbal generalizing body s t with
  | nil =>
    have hall : ∀ i ∈ body, isCls i = true := by simpa using List.filter_eq_nil_iff.mp hcore
    exact execAll_cls_keepsFrameByte hall hcls h
  | plain hi _ ih =>
    obtain ⟨u, v, rest, hsu, hv, ht, hrest, hcls⟩ := execAll_of_withoutCls_eq_cons hcore hcls h
    have hnocls := not_isCls_of_plainInstr hi
    have hsv := hsu.trans (exec_keepsFrameByte (.inl hi) (absurd · hnocls) hv)
    exact hsv.trans (ih hcls (hsv.lt_sp ha) ht hrest)
  | nested _ _ ihInner ihRest =>
    obtain ⟨u, v, tail, hsu, hv, ht, htail, hcls⟩ := execAll_of_withoutCls_eq_cons hcore hcls h
    obtain ⟨inner, afterInner, rfl, hinner, hafter⟩ := List.filter_eq_append_iff.mp htail
    obtain ⟨hclsInner, hclsAfter⟩ := List.forall_mem_append.mp hcls
    obtain ⟨w, hw, hret⟩ := execAll_append_next ht
    have haU : a < u.sp.toNat := hsu.lt_sp ha
    have haV : a < v.sp.toNat := by
      rw [(exec_call_next_sp hv).2]
      omega
    have hvw := ihInner hclsInner haV hw hinner
    obtain ⟨x, y, rest, hwx, hy, hyt, hrest, hcls⟩ := execAll_of_withoutCls_eq_cons hafter hclsAfter hret
    have huy := keepsFrameByte_of_call_ret hv haU (hvw.trans hwx) hy
    have hsy := hsu.trans huy
    exact hsy.trans (ihRest hcls (hsy.lt_sp ha) hyt hrest)

/-! The round trip. -/

theorem frameWord_of_lt {r : Word} (h : r.toNat < 0x1000) : frameWord r = r :=
  BitVec.eq_of_toNat_eq ((frameWord_toNat r).trans (Nat.mod_eq_of_lt h))

/-- The RET of a CALL, when what ran between them kept both bytes of the frame. -/
theorem ret_of_kept_frame {nnn : Addr} {ign : BitVec 4} {s u v t : State} (hpc : s.pc.toNat ≤ 0x0FFD)
    (hcall : exec (.call nnn) s = .next u) (hret : exec (.ret ign) v = .next t)
    (hkept : ∀ a, s.sp.toNat ≤ a → a < u.sp.toNat → keepsFrameByte a u v) : t.pc = s.pc + 2 ∧ t.sp = s.sp := by
  obtain ⟨huSp, huNat⟩ := exec_call_next_sp hcall
  obtain ⟨hvSp, hhi⟩ := hkept s.sp.toNat le_rfl (by omega)
  obtain ⟨_, hlo⟩ := hkept (s.sp.toNat + 1) (by omega) (by omega)
  rw [exec_call_next_mem hcall, callMem_read_sp] at hhi
  rw [exec_call_next_mem hcall, callMem_read_sp_succ] at hlo
  obtain ⟨_, _, _, rfl⟩ := execRet_next (s := v) hret
  have hvNat : v.sp.toNat = s.sp.toNat + 2 := hvSp ▸ huNat
  have hpcNat : (s.pc + 2).toNat < 0x1000 := by rw [toNat_add_two (by omega)]; omega
  constructor
  · calc joinBytes (v.mem.read (v.sp.toNat - 2)) (v.mem.read (v.sp.toNat - 1))
        _ = joinBytes (v.mem.read s.sp.toNat) (v.mem.read (s.sp.toNat + 1)) := by rw [hvNat]; rfl
        _ = joinBytes (hiByte (frameWord (s.pc + 2))) (loByte (frameWord (s.pc + 2))) :=
          congrArg₂ joinBytes hhi hlo
        _ = s.pc + 2 := by rw [joinBytes_hiByte_loByte, frameWord_of_lt hpcNat]
  · rw [State.setPc_sp, State.setSp_sp, hvSp, huSp, BitVec.add_sub_cancel]

/-- Settles O59: the frame of the outer CALL lies below the `sp` at which the body starts, so the body keeps it. -/
theorem nestedCallReturnWithCls : Obligations.NestedCallReturnWithCls := by
  intro body nnn ign s t hbal hcls _ hpc h
  obtain ⟨u, hcall, hrest⟩ := execAll_cons_eq_next_iff.mp h
  obtain ⟨v, hbody, hret⟩ := execAll_append_next hrest
  rw [execAll_singleton] at hret
  refine ret_of_kept_frame hpc hcall hret fun a _ hhi => ?_
  refine execAll_balanced_keepsFrameByte hbal (fun i hi hclsI => ?_) hhi hbody
  rcases hcls with hlow | hnone
  · rw [(exec_call_next_sp hcall).2] at hhi
    simp only [displayStart]
    omega
  · have := List.all_eq_true.mp hnone i hi
    simp [hclsI] at this

/-- Settles O48: a balanced body has no CLS. -/
theorem balancedCallReturnRestoresPcAndSp : Obligations.BalancedCallReturnRestoresPcAndSp := by
  intro body nnn ign s t hbal hs hpc h
  have hnone : body.all (fun i => !isCls i) = true := by simpa using hbal.not_isCls
  have hself : withoutCls body = body := List.filter_eq_self.mpr (List.all_eq_true.mp hnone)
  have hcore : Balanced (withoutCls body) := by rwa [hself]
  exact nestedCallReturnWithCls body nnn ign s t hcore (.inr hnone) hs (by omega) h

end Sys2Proof.Machine
end

section
/-! The load, arithmetic and logic group (spec/41_arith_logic.md): what the two ways of writing a result leave, and the result of
each instruction (rules R101 to R111). -/

namespace Sys2Proof.Machine

/-- A word of family 8, its sub-operation `n` in the low nibble (R62, R64). -/
theorem decodesTo_family8 (x y n : BitVec 4) {i : Instr} (h : encode i = 0x8#4 ++ x ++ y ++ n) :
    decodesTo (0x8000 + n.toNat + 256 * x.toNat + 16 * y.toNat) i := by
  apply decodesTo_of_encode_toNat
  rw [h, toNat_nibbleWord, BitVec.toNat_ofNat]
  omega

/-! A result without a flag. -/

theorem writeResult_getV_self (s : State) (x : Reg) (v : Byte) : (s.writeResult x v).getV x = v := by
  rw [State.writeResult_getV, if_pos rfl]

theorem writeResult_frame (s : State) (x : Reg) (v : Byte) : frame (· = x) s (s.writeResult x v) := by
  have hregs : sameRegs (· = x) s (s.writeResult x v) := fun r hr => by rw [State.writeResult_getV, if_neg hr]
  exact ⟨hregs, fun _ => rfl, ⟨rfl, rfl, rfl⟩, rfl, rfl, rfl, rfl, rfl, rfl⟩

/-- Settles O1: the operand is the result (R101). -/
theorem ldImmLoadsTheImmediate : Obligations.LdImmLoadsTheImmediate := by
  intro x kk s
  exact ⟨decodesTo_of_encode_toNat (toNat_immWord 0x6#4 x kk), s.writeResult x kk, rfl, writeResult_getV_self s x _, rfl,
    writeResult_frame s x _⟩

/-- Settles O2: addition of bytes is modulo 256 (R102). -/
theorem addImmAddsModulo256WithoutFlag : Obligations.AddImmAddsModulo256WithoutFlag := by
  intro x kk s
  refine ⟨decodesTo_of_encode_toNat (toNat_immWord 0x7#4 x kk), s.writeResult x (s.getV x + kk), rfl, ?_, rfl,
    writeResult_frame s x _⟩
  rw [writeResult_getV_self, BitVec.toNat_add]

/-- Settles O3: `V[y]` is the result (R103). -/
theorem ldRegCopiesTheSecondRegister : Obligations.LdRegCopiesTheSecondRegister := by
  intro x y s
  exact ⟨decodesTo_family8 x y 0x0#4 rfl, s.writeResult x (s.getV y), rfl,
    writeResult_getV_self s x _, rfl, writeResult_frame s x _⟩

/-- Settles O4, by the bits of a bitwise OR (R104). -/
theorem orCombinesTheRegistersBitwise : Obligations.OrCombinesTheRegistersBitwise := by
  intro x y s
  refine ⟨decodesTo_family8 x y 0x1#4 rfl, s.writeResult x (s.getV x ||| s.getV y), rfl,
    fun k => ?_, rfl, writeResult_frame s x _⟩
  rw [writeResult_getV_self, BitVec.getLsbD_or]

/-- Settles O5, by the bits of a bitwise AND (R105). -/
theorem andCombinesTheRegistersBitwise : Obligations.AndCombinesTheRegistersBitwise := by
  intro x y s
  refine ⟨decodesTo_family8 x y 0x2#4 rfl, s.writeResult x (s.getV x &&& s.getV y), rfl,
    fun k => ?_, rfl, writeResult_frame s x _⟩
  rw [writeResult_getV_self, BitVec.getLsbD_and]

/-- Settles O6, by the bits of a bitwise exclusive OR, which of a byte with itself is zero (R106). -/
theorem xorCombinesTheRegistersBitwise : Obligations.XorCombinesTheRegistersBitwise := by
  intro x y s
  refine ⟨decodesTo_family8 x y 0x3#4 rfl, s.writeResult x (s.getV x ^^^ s.getV y), rfl,
    fun k => ?_, ?_, rfl, writeResult_frame s x _⟩
  · rw [writeResult_getV_self, BitVec.getLsbD_xor]
  · rintro rfl
    exact (writeResult_getV_self s x _).trans BitVec.xor_self

/-! A result with a flag. -/

theorem writeFlagged_getV_self (s : State) (x : Reg) (flag v : Byte) : (s.writeFlagged x flag v).getV x = v := by
  rw [State.writeFlagged_getV, if_pos rfl]

theorem writeFlagged_getV_flag (s : State) {x : Reg} (hx : x ≠ 0xF#4) (flag v : Byte) :
    (s.writeFlagged x flag v).getV 0xF#4 = flag := by
  rw [State.writeFlagged_getV, if_neg (Ne.symm hx), if_pos (show 0xF#4 = flagReg from rfl)]

theorem writeFlagged_frame (s : State) (x : Reg) (flag v : Byte) :
    frame (fun r => r = x ∨ r = 0xF#4) s (s.writeFlagged x flag v) := by
  have hregs : sameRegs (fun r => r = x ∨ r = 0xF#4) s (s.writeFlagged x flag v) := fun r hr => by
    obtain ⟨hx, hF⟩ := not_or.mp hr
    rw [State.writeFlagged_getV, if_neg hx, if_neg (show ¬ r = flagReg from hF)]
  exact ⟨hregs, fun _ => rfl, ⟨rfl, rfl, rfl⟩, rfl, rfl, rfl, rfl, rfl, rfl⟩

/-- What an instruction with a flag leaves, its result and its flag as numbers: with `x = 0xF` the result stands (R100). -/
theorem writeFlagged_of_toNat (s : State) (x : Reg) {flag v : Byte} {result bit : Nat} (hv : v.toNat = result)
    (hflag : flag.toNat = bit) :
    ((s.writeFlagged x flag v).getV x).toNat = result ∧
    (x ≠ 0xF#4 → ((s.writeFlagged x flag v).getV 0xF#4).toNat = bit) ∧
    (s.writeFlagged x flag v).pc = s.pc + 2 ∧ frame (fun r => r = x ∨ r = 0xF#4) s (s.writeFlagged x flag v) := by
  refine ⟨?_, fun hx => ?_, rfl, writeFlagged_frame s x flag v⟩
  · rw [writeFlagged_getV_self, hv]
  · rw [writeFlagged_getV_flag s hx, hflag]

/-- Settles O7: the low 8 bits of the 16-bit sum, and its carry (R107). -/
theorem addRegStoresTheSumAndTheCarry : Obligations.AddRegStoresTheSumAndTheCarry := by
  intro x y s
  have hsum : ((wideSum (s.getV x) (s.getV y)).setWidth 8).toNat = ((s.getV x).toNat + (s.getV y).toNat) % 256 := by
    rw [BitVec.toNat_setWidth, wideSum_toNat]
  exact ⟨decodesTo_family8 x y 0x4#4 rfl, _, rfl,
    writeFlagged_of_toNat s x hsum (carryFlag_toNat _ _)⟩

theorem toNat_byte_sub (a b : Byte) : (a - b).toNat = (256 + a.toNat - b.toNat) % 256 := by
  rw [BitVec.toNat_sub]
  omega

/-- Settles O8: the difference modulo 256 and the strict comparison, both of the values before the step (R108). -/
theorem subRegStoresTheDifferenceAndTheComparison : Obligations.SubRegStoresTheDifferenceAndTheComparison := by
  intro x y s
  exact ⟨decodesTo_family8 x y 0x5#4 rfl, _, rfl,
    writeFlagged_of_toNat s x (toNat_byte_sub _ _) (greaterFlag_toNat _ _)⟩

/-- Settles O9: a shift by one place halves, and the bit shifted out is the remainder (R109). -/
theorem shrHalvesTheRegisterAndKeepsTheLowBit : Obligations.ShrHalvesTheRegisterAndKeepsTheLowBit := by
  intro x ign s
  have hhalf : (s.getV x >>> 1).toNat = (s.getV x).toNat / 2 := by
    rw [BitVec.toNat_ushiftRight, Nat.shiftRight_one]
  exact ⟨decodesTo_family8 x ign 0x6#4 rfl, _, rfl,
    writeFlagged_of_toNat s x hhalf (lowBitFlag_toNat _)⟩

/-- Settles O10: as SUB with the operands exchanged (R110). -/
theorem subnRegStoresTheReversedDifference : Obligations.SubnRegStoresTheReversedDifference := by
  intro x y s
  exact ⟨decodesTo_family8 x y 0x7#4 rfl, _, rfl,
    writeFlagged_of_toNat s x (toNat_byte_sub _ _) (greaterFlag_toNat _ _)⟩

/-! The address register. -/

/-- Settles O11: the operand is extended with zeros (R111). -/
theorem ldILoadsTheAddressOperand : Obligations.LdILoadsTheAddressOperand := by
  intro nnn s
  exact ⟨decodesTo_of_encode_toNat (toNat_addrWord 0xA#4 nnn), (s.setI (addrOperand nnn)).advance, rfl,
    addrOperand_toNat nnn, rfl, fun _ _ => rfl, fun _ => rfl, rfl, rfl, rfl, rfl, rfl, rfl, rfl, rfl⟩

end Sys2Proof.Machine
end

section
/-! Display clear, random and the placeholders (spec/42_display_random_placeholders.md rules R120 to R125). -/

namespace Sys2Proof.Machine

/-! The clear (R120). -/

theorem Memory.zeroRange_zero (m : Memory) (lo : Nat) : m.zeroRange lo 0 = m := by
  rw [Memory.zeroRange, List.filter_eq_self]
  intro c _
  simpa using Nat.lt_or_ge c.1 lo

/-- Writing what an unlisted address reads as drops the cells of the address. -/
theorem Memory.write_zero (m : Memory) (a : Nat) : m.write a 0x00 = m.filter (fun c => c.1 != a) := by
  unfold Memory.write
  exact if_pos rfl

/-- Clearing one byte more is one more write of 0x00. -/
theorem Memory.zeroRange_succ (m : Memory) (lo n : Nat) :
    m.zeroRange lo (n + 1) = (m.zeroRange lo n).write (lo + n) 0x00 := by
  rw [Memory.write_zero, Memory.zeroRange, Memory.zeroRange, List.filter_filter]
  congr 1
  funext c
  rw [Bool.eq_iff_iff]
  simp only [Bool.not_eq_true', Bool.and_eq_false_iff, decide_eq_false_iff_not, Bool.and_eq_true, bne_iff_ne]
  omega

/-- The clear of `n` bytes is the loop of `n` writes in rising order, for every memory. -/
theorem Memory.zeroRange_eq_foldl_write (m : Memory) (lo n : Nat) :
    m.zeroRange lo n = (List.range n).foldl (fun (acc : Memory) k => acc.write (lo + k) 0x00) m := by
  induction n with
  | zero => exact Memory.zeroRange_zero m lo
  | succ n ih => rw [Memory.zeroRange_succ, ih, List.range_succ, List.foldl_append, List.foldl_cons, List.foldl_nil]

/-- Settles O57, by induction over the number of bytes cleared. -/
theorem clearIsTheLoopOfTheRule : Obligations.ClearIsTheLoopOfTheRule :=
  fun m => Memory.zeroRange_eq_foldl_write m displayStart displayBytes

/-! The placeholders (R122 to R125). -/

/-- The mark of R125 is kept for the rest of the run: no handler clears it. -/
theorem exec_keeps_unimplSeen {i : Instr} {s t : State} (hseen : s.unimplSeen = true) (h : exec i s = .next t) :
    t.unimplSeen = true := by
  obtain ⟨_, hmark⟩ := exec_next_status h
  rw [hmark, hseen, Bool.true_or]

/-- Settles O22: all three have one effect, which writes the status, its mark and perhaps `pc`. -/
theorem placeholdersOnlyReportAndAdvance : Obligations.PlaceholdersOnlyReportAndAdvance := by
  intro low s
  refine ⟨decodesTo_of_encode_toNat (toNat_addrWord 0xD#4 low), decodesTo_of_encode_toNat (toNat_addrWord 0xE#4 low),
    decodesTo_of_encode_toNat (toNat_addrWord 0xF#4 low), fun i hi => ?_⟩
  have hexec : exec i s = .next s.placeholder := by
    rcases hi with rfl | rfl | rfl <;> rfl
  have hspecial : sameSpecial s s.placeholder :=
    ⟨State.placeholder_ireg s, State.placeholder_dt s, State.placeholder_st s⟩
  have hmem : sameMem s s.placeholder := fun a => by rw [State.placeholder_mem]
  exact ⟨s.placeholder, hexec, State.placeholder_status s, State.placeholder_unimplSeen s, State.placeholder_pc s,
    fun r _ => State.placeholder_getV s r, hmem, hspecial, State.placeholder_sp s, State.placeholder_cfg s,
    State.placeholder_draws s, State.placeholder_failed s,
    fun _ _ => exec_keeps_unimplSeen (State.placeholder_unimplSeen s)⟩

/-! CLS (R120). -/

/-- Every byte of the display is 0x00 (R20, R120). -/
def displayZero (s : State) : Prop := ∀ a, 0x0F00 ≤ a → a ≤ 0x0FFF → s.mem.read a = 0x00

theorem displayZero_of_clear {s t : State} (hmem : t.mem = s.mem.zeroRange displayStart displayBytes) : displayZero t := by
  intro a hlo hhi
  rw [hmem, Memory.read_zeroRange, if_pos (by simp only [displayStart, displayBytes]; omega)]

theorem sameMemOutside_of_clear {s t : State} (hmem : t.mem = s.mem.zeroRange displayStart displayBytes) :
    sameMemOutside 0x0F00 256 s t := by
  intro a ha
  rw [hmem, Memory.read_zeroRange, if_neg (by simp only [displayStart, displayBytes]; omega)]

theorem displayZero.pixelLit {s : State} (hzero : displayZero s) (c : Fin 64) (r : Fin 32) : s.pixelLit c r = false := by
  have hbyte : s.displayByte (pixelByte c r) = 0x00 := hzero _ (Nat.le_add_right _ _) (by simp only [displayStart]; omega)
  rw [State.pixelLit, hbyte]
  exact BitVec.getLsbD_zero

/-- A fetch from a zero display reads 0x0000, a word without a handler (R65, R131). -/
theorem displayZero.step {s : State} (hzero : displayZero s) (hlo : 0x0F00 ≤ s.pc.toNat) (hhi : s.pc.toNat ≤ 0x0FFE) :
    step s = .fault (.decodeError s.pc 0x0000 0x0000) := by
  rw [step_eq, if_pos hhi, hzero s.pc.toNat hlo (by omega), hzero (s.pc.toNat + 1) (by omega) (by omega)]
  rfl

theorem encode_cls_toNat (ign : BitVec 4) : (encode (.cls ign)).toNat = 0x00E0 + 256 * ign.toNat := by
  rw [encode, toNat_immWord, BitVec.toNat_ofNat, BitVec.toNat_ofNat]
  omega

/-- Settles O20: only memory and `pc` are written, and a `pc` that the clear reaches fetches 0x0000 next. -/
theorem clsZeroesTheDisplayAndNothingElse : Obligations.ClsZeroesTheDisplayAndNothingElse := by
  intro ign s
  have hzero : displayZero (s.setMem (s.mem.zeroRange displayStart displayBytes)).advance := displayZero_of_clear rfl
  refine ⟨decodesTo_of_encode_toNat (encode_cls_toNat ign), _, rfl, hzero, sameMemOutside_of_clear rfl, rfl,
    hzero.pixelLit, fun hlo hhi => ?_, fun _ _ => rfl, ⟨rfl, rfl, rfl⟩, rfl, rfl, rfl, rfl, rfl, rfl⟩
  have hpc : (s.setMem (s.mem.zeroRange displayStart displayBytes)).advance.pc.toNat = s.pc.toNat + 2 :=
    toNat_add_two (p := s.pc) (by omega)
  exact hzero.step (by omega) (by omega)

/-! RND (R121). -/

theorem rndWith_getV_self (rndIn : Byte) (x : Reg) (kk : Byte) (s : State) :
    (rndWith rndIn x kk s).getV x = rndIn &&& kk := writeResult_getV_self _ x _

/-- Settles O21: a result without a flag, after the count of draws. -/
theorem rndStoresTheRandomByteUnderTheMask : Obligations.RndStoresTheRandomByteUnderTheMask := by
  intro x kk s
  obtain ⟨hregs, hmem, hspecial, hsp, hcfg, hstatus, hseen, _, hfailed⟩ :=
    writeResult_frame (s.setDraws (s.draws + 1)) x (Config.rndIn s.draws &&& kk)
  refine ⟨decodesTo_of_encode_toNat (toNat_immWord 0xC#4 x kk), fun rndIn k => ?_,
    _, rfl, rfl, rfl, rfl, hregs, hmem, hspecial, hsp, hcfg, hstatus, hseen, hfailed⟩
  rw [rndWith_getV_self, BitVec.getLsbD_and]

end Sys2Proof.Machine
end

section
/-! The four fatal errors (spec/60_exceptions.md rules R130 to R137): the cases in which a step raises one, and its `info`. -/

namespace Sys2Proof.Machine

theorem fault_eq_fault_iff {f g : Fault} : (.fault g : Out) = .fault f ↔ f = g := by
  rw [Host.Outcome.fault.injEq, eq_comm]

/-! The errors of CALL and of RET. -/

/-- CALL raises `f`: the full test, then the region check of `sp`, then of `sp + 1` (R132, R134; D17, D18). -/
def callRaises (s : State) (f : Fault) : Prop :=
  (s.sp = stackTop s.cfg ∧ f = .stackOverflow s.pc s.sp) ∨
  (s.sp ≠ stackTop s.cfg ∧
    ((¬ inStack s.cfg s.sp.toNat ∧ f = .accessViolation s.sp.toNat) ∨
     (inStack s.cfg s.sp.toNat ∧ ¬ inStack s.cfg (s.sp.toNat + 1) ∧ f = .accessViolation (s.sp.toNat + 1))))

/-- RET raises `f`: the empty test, then the region check of `sp - 2`, then of `sp - 1` (R133, R134; D17, D18). -/
def retRaises (s : State) (f : Fault) : Prop :=
  (s.sp.toNat = 0x0EA0 ∧ f = .stackUnderflow s.pc s.sp) ∨
  (s.sp.toNat ≠ 0x0EA0 ∧
    ((¬ inStack s.cfg ((s.sp.toNat : Int) - 2) ∧ f = .accessViolation ((s.sp.toNat : Int) - 2)) ∨
     (inStack s.cfg ((s.sp.toNat : Int) - 2) ∧ ¬ inStack s.cfg ((s.sp.toNat : Int) - 1) ∧
       f = .accessViolation ((s.sp.toNat : Int) - 1))))

/-- An answer under three checks: which of them fails first, in the order in which CALL and RET make theirs. -/
theorem checked_eq_fault_iff {full low high : Prop} [Decidable full] [Decidable low] [Decidable high] {t : State}
    {f fullFault lowFault highFault : Fault} :
    (if full then .fault fullFault else if low then (if high then .next t else .fault highFault) else .fault lowFault :
        Out) = .fault f ↔
      (full ∧ f = fullFault) ∨ (¬ full ∧ ((¬ low ∧ f = lowFault) ∨ (low ∧ ¬ high ∧ f = highFault))) := by
  split_ifs with hfull hlow hhigh
  · rw [fault_eq_fault_iff]
    simp [hfull]
  · simp [hfull, hlow, hhigh]
  · rw [fault_eq_fault_iff]
    simp [hfull, hlow, hhigh]
  · rw [fault_eq_fault_iff]
    simp [hfull, hlow]

theorem execCall_eq_fault_iff (nnn : Addr) (s : State) (f : Fault) : execCall nnn s = .fault f ↔ callRaises s f := by
  rw [execCall_eq]
  exact checked_eq_fault_iff

theorem execRet_eq_fault_iff (s : State) (f : Fault) : execRet s = .fault f ↔ retRaises s f := by
  have hbottom : s.sp = stackBottom ↔ s.sp.toNat = 0x0EA0 := by rw [← BitVec.toNat_inj, stackBottom_toNat]
  simp only [execRet_eq, hbottom]
  exact checked_eq_fault_iff

theorem exec_eq_fault_iff (i : Instr) (s : State) (f : Fault) :
    exec i s = .fault f ↔ ((∃ nnn, i = .call nnn) ∧ callRaises s f) ∨ ((∃ ign, i = .ret ign) ∧ retRaises s f) := by
  constructor
  · intro h
    rcases exec_fault_cases h with ⟨nnn, hi, hcall⟩ | ⟨ign, hi, hret⟩
    · exact .inl ⟨⟨nnn, hi⟩, (execCall_eq_fault_iff nnn s f).mp hcall⟩
    · exact .inr ⟨⟨ign, hi⟩, (execRet_eq_fault_iff s f).mp hret⟩
  · rintro (⟨⟨nnn, rfl⟩, h⟩ | ⟨⟨ign, rfl⟩, h⟩)
    · exact (execCall_eq_fault_iff nnn s f).mpr h
    · exact (execRet_eq_fault_iff s f).mpr h

/-! The words of CALL and of RET as numbers (R64). -/

theorem decodeWord_is_call_iff {w : Word} {i : Instr} (h : decodeWord w = .ok i) :
    (∃ nnn, i = .call nnn) ↔ w.toNat / 4096 = 0x2 := by
  constructor
  · rintro ⟨nnn, rfl⟩
    rw [← encodeOfDecodedIsTheWord w _ h, ← fieldFam_toNat, encode, fieldFam_addr]
    rfl
  · intro hfam
    have hfam : fieldFam w = 0x2#4 := BitVec.eq_of_toNat_eq ((fieldFam_toNat w).trans hfam)
    have hword : encode (.call (fieldNnn w)) = w := by rw [encode, ← hfam, fam_append_nnn]
    rw [← hword, decodeWord_encode] at h
    exact ⟨fieldNnn w, (Except.ok.inj h).symm⟩

theorem decodeWord_is_ret_iff {w : Word} {i : Instr} (h : decodeWord w = .ok i) :
    (∃ ign, i = .ret ign) ↔ w.toNat / 4096 = 0x0 ∧ w.toNat % 256 = 0xEE := by
  constructor
  · rintro ⟨ign, rfl⟩
    rw [← encodeOfDecodedIsTheWord w _ h, ← fieldFam_toNat, ← fieldKk_toNat, encode, fieldFam_imm, fieldKk_imm]
    exact ⟨rfl, rfl⟩
  · rintro ⟨hfam, hkk⟩
    have hfam : fieldFam w = 0x0#4 := BitVec.eq_of_toNat_eq ((fieldFam_toNat w).trans hfam)
    have hkk : fieldKk w = 0xEE#8 := BitVec.eq_of_toNat_eq ((fieldKk_toNat w).trans hkk)
    have hword : encode (.ret (fieldX w)) = w := by rw [encode, ← hfam, ← hkk, fam_append_x_append_kk]
    rw [← hword, decodeWord_encode] at h
    exact ⟨fieldX w, (Except.ok.inj h).symm⟩

/-! The errors of a step. -/

/-- The word that a fetch inside memory reads (R43, R68). -/
def wordAtPc (s : State) : Word := joinBytes (s.mem.read s.pc.toNat) (s.mem.read (s.pc.toNat + 1))

theorem wordAtPc_toNat (s : State) : (wordAtPc s).toNat = s.wordAt s.pc.toNat := wordAt_eq s _

theorem eq_wordAtPc_iff (s : State) (w : Word) : w = wordAtPc s ↔ w.toNat = s.wordAt s.pc.toNat := by
  rw [← BitVec.toNat_inj, wordAtPc_toNat]

/-- The error of a step that fetches inside memory: of the decoder for a word without a handler, else of the handler (R68). -/
theorem step_eq_fault_iff_of_pc_inside {s : State} (hpc : s.pc.toNat ≤ 0x0FFE) (f : Fault) :
    step s = .fault f ↔
      (illegalWord (wordAtPc s) ∧ f = .decodeError s.pc (wordAtPc s) (dispatchKey (wordAtPc s))) ∨
      (s.wordAt s.pc.toNat / 4096 = 0x2 ∧ callRaises s f) ∨
      ((s.wordAt s.pc.toNat / 4096 = 0x0 ∧ s.wordAt s.pc.toNat % 256 = 0xEE) ∧ retRaises s f) := by
  have hword := wordAtPc_toNat s
  obtain ⟨hrejects, hdecodes⟩ := decoderRejectsExactlyTheIllegalWords (wordAtPc s)
  by_cases hillegal : illegalWord (wordAtPc s)
  · have hstep : step s = .fault (.decodeError s.pc (wordAtPc s) (dispatchKey (wordAtPc s))) := by
      have hreject := hrejects hillegal
      unfold wordAtPc at hreject
      rw [step_eq, if_pos hpc, hreject]
      rfl
    have hcall : ¬ (s.wordAt s.pc.toNat / 4096 = 0x2) := by omega
    have hret : ¬ (s.wordAt s.pc.toNat / 4096 = 0x0 ∧ s.wordAt s.pc.toNat % 256 = 0xEE) := by omega
    simp only [hstep, fault_eq_fault_iff, hillegal, hcall, hret, true_and, false_and, or_false]
  · obtain ⟨i, hi⟩ := hdecodes hillegal
    rw [step_of_decodeWord hpc hi, exec_eq_fault_iff, decodeWord_is_call_iff hi, decodeWord_is_ret_iff hi, hword]
    simp only [hillegal, false_and, false_or]
    rfl

/-- Everything that a step can raise: the fetch, the decoder, the handler (R137). -/
theorem step_eq_fault_iff (s : State) (f : Fault) :
    step s = .fault f ↔
      (0x0FFE < s.pc.toNat ∧ f = .accessViolation (if 0x0FFF < s.pc.toNat then (s.pc.toNat : Int) else 0x1000)) ∨
      (s.pc.toNat ≤ 0x0FFE ∧
        ((illegalWord (wordAtPc s) ∧ f = .decodeError s.pc (wordAtPc s) (dispatchKey (wordAtPc s))) ∨
         (s.wordAt s.pc.toNat / 4096 = 0x2 ∧ callRaises s f) ∨
         ((s.wordAt s.pc.toNat / 4096 = 0x0 ∧ s.wordAt s.pc.toNat % 256 = 0xEE) ∧ retRaises s f))) := by
  rcases le_or_gt s.pc.toNat 0x0FFE with hpc | hpc
  · rw [step_eq_fault_iff_of_pc_inside hpc]
    simp only [hpc, not_lt_of_ge hpc, false_and, false_or, true_and]
  · rw [step_of_pc_outside hpc, fault_eq_fault_iff]
    simp only [hpc, not_le_of_gt hpc, true_and, false_and, or_false]

/-! Which case of `callRaises` and of `retRaises` an error is of. -/

theorem callRaises_accessViolation_iff (s : State) (a : Int) :
    callRaises s (.accessViolation a) ↔ s.sp ≠ stackTop s.cfg ∧
      ((¬ inStack s.cfg s.sp.toNat ∧ a = s.sp.toNat) ∨
       (inStack s.cfg s.sp.toNat ∧ ¬ inStack s.cfg (s.sp.toNat + 1) ∧ a = s.sp.toNat + 1)) := by
  simp only [callRaises, reduceCtorEq, and_false, false_or, Fault.accessViolation.injEq]

theorem retRaises_accessViolation_iff (s : State) (a : Int) :
    retRaises s (.accessViolation a) ↔ s.sp.toNat ≠ 0x0EA0 ∧
      ((¬ inStack s.cfg ((s.sp.toNat : Int) - 2) ∧ a = (s.sp.toNat : Int) - 2) ∨
       (inStack s.cfg ((s.sp.toNat : Int) - 2) ∧ ¬ inStack s.cfg ((s.sp.toNat : Int) - 1) ∧
         a = (s.sp.toNat : Int) - 1)) := by
  simp only [retRaises, reduceCtorEq, and_false, false_or, Fault.accessViolation.injEq]

theorem callRaises_stackOverflow_iff (s : State) (p q : Word) :
    callRaises s (.stackOverflow p q) ↔ s.sp = stackTop s.cfg ∧ p = s.pc ∧ q = s.sp := by
  simp only [callRaises, reduceCtorEq, and_false, or_false, Fault.stackOverflow.injEq]

theorem retRaises_stackUnderflow_iff (s : State) (p q : Word) :
    retRaises s (.stackUnderflow p q) ↔ s.sp.toNat = 0x0EA0 ∧ p = s.pc ∧ q = s.sp := by
  simp only [retRaises, reduceCtorEq, and_false, or_false, Fault.stackUnderflow.injEq]

@[simp] theorem not_callRaises_decodeError (s : State) (p w k : Word) : ¬ callRaises s (.decodeError p w k) := by
  simp [callRaises]

@[simp] theorem not_retRaises_decodeError (s : State) (p w k : Word) : ¬ retRaises s (.decodeError p w k) := by
  simp [retRaises]

@[simp] theorem not_callRaises_stackUnderflow (s : State) (p q : Word) : ¬ callRaises s (.stackUnderflow p q) := by
  simp [callRaises]

@[simp] theorem not_retRaises_stackOverflow (s : State) (p q : Word) : ¬ retRaises s (.stackOverflow p q) := by
  simp [retRaises]

/-- Settles O30: the fetch raises it outside memory, CALL and RET outside the stack region, the decoder never. -/
theorem accessViolationIsRaisedExactlySo : Obligations.AccessViolationIsRaisedExactlySo := by
  intro s a
  simp only [step_eq_fault_iff, callRaises_accessViolation_iff, retRaises_accessViolation_iff, reduceCtorEq, and_false,
    false_or, Fault.accessViolation.injEq, and_or_left, and_assoc]

/-- Settles O31: only the decoder raises it, after a fetch and of the word fetched. -/
theorem decodeErrorIsRaisedExactlySo : Obligations.DecodeErrorIsRaisedExactlySo := by
  intro s p w k
  simp only [step_eq_fault_iff, not_callRaises_decodeError, not_retRaises_decodeError, reduceCtorEq, and_false, false_or,
    or_false, Fault.decodeError.injEq, ← eq_wordAtPc_iff]
  constructor
  · rintro ⟨hpc, hillegal, hp, rfl, hk⟩
    exact ⟨hpc, hp, rfl, hk, hillegal⟩
  · rintro ⟨hpc, hp, rfl, hk, hillegal⟩
    exact ⟨hpc, hillegal, hp, rfl, hk⟩

/-- Settles O32: only CALL raises it; an `sp` above `STACK_TOP` is outside the stack region. -/
theorem stackOverflowIsRaisedExactlySo : Obligations.StackOverflowIsRaisedExactlySo := by
  intro s
  refine ⟨fun p q => ?_, fun hpc hcall hsp => ?_⟩
  · simp only [step_eq_fault_iff, callRaises_stackOverflow_iff, not_retRaises_stackOverflow, reduceCtorEq, and_false,
      false_or, or_false]
  · have hfull : s.sp ≠ stackTop s.cfg := fun h => by simp [h] at hsp
    have hout : ¬ inStack s.cfg s.sp.toNat := by omega
    rw [step_eq_fault_iff_of_pc_inside hpc, callRaises_accessViolation_iff]
    exact .inr (.inl ⟨hcall, hfull, .inl ⟨hout, rfl⟩⟩)

/-- Settles O33: only RET raises it; with `sp` below `STACK_BOTTOM` the frame is outside the stack region. -/
theorem stackUnderflowIsRaisedExactlySo : Obligations.StackUnderflowIsRaisedExactlySo := by
  intro s
  refine ⟨fun p q => ?_, fun hpc hfam hkk hsp => ?_⟩
  · simp only [step_eq_fault_iff, retRaises_stackUnderflow_iff, not_callRaises_stackUnderflow, reduceCtorEq, and_false,
      false_or, and_assoc]
  · have hout : ¬ inStack s.cfg ((s.sp.toNat : Int) - 2) := by omega
    rw [step_eq_fault_iff_of_pc_inside hpc, retRaises_accessViolation_iff]
    exact .inr (.inr ⟨⟨hfam, hkk⟩, hsp.ne, .inl ⟨hout, rfl⟩⟩)

/-! After an error (R135, R136). -/

/-- The mark of a failed run does not change what a step raises. -/
theorem step_setFailed_eq_fault_iff (s : State) (v : Bool) (f : Fault) :
    step (s.setFailed v) = .fault f ↔ step s = .fault f :=
  (step_eq_fault_iff (s.setFailed v) f).trans (step_eq_fault_iff s f).symm

/-- Settles O37: the second step raises what the first one did. -/
theorem errorLeavesTheStateUntouched : Obligations.ErrorLeavesTheStateUntouched := by
  intro s f h
  exact ⟨stepEvent_of_fault h, stepEvent_of_fault ((step_setFailed_eq_fault_iff s true f).mpr h)⟩

end Sys2Proof.Machine
end

section
/-! The mark of a failed run (U7, R136, R169): no handler sees it, a step event that ends in an error sets it, nothing clears it. -/

namespace Sys2Proof.Machine

theorem unseen_setFailed (v : Bool) : Unseen (fun s => s.setFailed v) := by
  constructor <;> intros <;> rfl

/-- The mark is unseen by every handler, LD I and RND too. -/
theorem exec_setFailed (i : Instr) (s : State) (v : Bool) :
    exec i (s.setFailed v) = mapNext (fun t => t.setFailed v) (exec i s) := by
  refine (unseen_setFailed v).exec s ?_ ?_
  · rintro nnn rfl
    rfl
  · rintro x kk rfl
    rfl

/-- A handler leaves what a change that it does not see would write over. -/
theorem next_fixed_of_mapNext {i : Instr} {s t : State} {f : State → State} (hunseen : exec i (f s) = mapNext f (exec i s))
    (hfixed : f s = s) (h : exec i s = .next t) : f t = t := by
  rw [hfixed, h] at hunseen
  exact (Host.Outcome.next.inj hunseen).symm

theorem exec_next_failed {i : Instr} {s t : State} (h : exec i s = .next t) : t.failed = s.failed :=
  (congrArg State.failed (next_fixed_of_mapNext (f := fun u => u.setFailed s.failed) (exec_setFailed i s _) rfl h)).symm

theorem step_next_failed {s t : State} (h : step s = .next t) : t.failed = s.failed := by
  obtain ⟨_, _, _, _, hexec⟩ := step_next h
  exact (exec_next_failed hexec).trans (State.beginStep_failed s)

/-- One event: the mark is set by a step that ends in an error, and otherwise kept. -/
theorem applyEvent_failedEnd_iff (s : State) (e : Event) :
    failedEnd (applyEvent s e).1 ↔ failedEnd s ∨ (e = .step ∧ ∃ f, step s = .fault f) := by
  cases e with
  | step =>
    change failedEnd s.stepEvent.1 ↔ _
    cases h : step s with
    | next t => simp [stepEvent_of_next h, failedEnd, step_next_failed h]
    | fault f => simp [stepEvent_of_fault h, failedEnd]
    | refused r => exact absurd h (noStepIsRefused s r)
  | reset | tick | hostWrite | hostRead => simp [applyEvent, failedEnd]

/-- Some step event among `es`, from `s` on, ends in an error. -/
def someStepRaises (es : List Event) (s : State) : Prop :=
  ∃ before after f, es = before ++ .step :: after ∧ step (runEvents before s) = .fault f

theorem not_someStepRaises_nil (s : State) : ¬ someStepRaises [] s := by
  rintro ⟨before, after, f, hes, _⟩
  simp at hes

theorem someStepRaises_cons_iff (e : Event) (es : List Event) (s : State) :
    someStepRaises (e :: es) s ↔ (e = .step ∧ ∃ f, step s = .fault f) ∨ someStepRaises es (applyEvent s e).1 := by
  constructor
  · rintro ⟨before, after, f, hes, h⟩
    cases before with
    | nil => exact .inl ⟨(List.cons.inj hes).1, f, h⟩
    | cons d rest =>
      obtain ⟨rfl, hrest⟩ := List.cons.inj hes
      exact .inr ⟨rest, after, f, hrest, h⟩
  · rintro (⟨rfl, f, h⟩ | ⟨before, after, f, rfl, h⟩)
    · exact ⟨[], es, f, rfl, h⟩
    · exact ⟨e :: before, after, f, rfl, h⟩

theorem runEvents_failedEnd_iff (es : List Event) (s : State) :
    failedEnd (runEvents es s) ↔ failedEnd s ∨ someStepRaises es s := by
  induction es generalizing s with
  | nil => simp only [runEvents, not_someStepRaises_nil, or_false]
  | cons e rest ih => rw [runEvents, ih, applyEvent_failedEnd_iff, someStepRaises_cons_iff, or_assoc]

/-- Settles O60, by induction over the events; the mark that an error leaves excludes a final state. -/
theorem failedRunIsNeverFinal : Obligations.FailedRunIsNeverFinal := by
  refine ⟨runEvents_failedEnd_iff, fun before after s f h hfinal => ?_, exec_setFailed⟩
  obtain ⟨_, hnotFailed⟩ := hfinal
  exact hnotFailed ((runEvents_failedEnd_iff _ s).mpr (.inr ⟨before, after, f, rfl, h⟩))

end Sys2Proof.Machine
end

section
/-! The timers (rules R15, R141 and R142): the tick lowers them, and nothing raises them. -/

namespace Sys2Proof.Machine

theorem timerDown_toNat (v : Byte) : (timerDown v).toNat = v.toNat - 1 := by
  unfold timerDown
  split_ifs with hzero
  · rw [hzero]
    rfl
  · bv_omega

/-- Settles O54: the tick writes the two timers alone. -/
theorem tickLowersEachTimerTowardZero : Obligations.TickLowersEachTimerTowardZero := fun s =>
  ⟨s.tick, rfl, timerDown_toNat s.dt, timerDown_toNat s.st, fun _ _ => rfl, fun _ => rfl, rfl, rfl, rfl, rfl, rfl, rfl,
    rfl, rfl⟩

/-- Both timers are zero. -/
def timersZero (s : State) : Prop := s.dt = 0x00 ∧ s.st = 0x00

theorem exec_next_timers {i : Instr} {s t : State} (h : exec i s = .next t) : t.dt = s.dt ∧ t.st = s.st := by
  have hfixed : t.setTimers s.dt s.st = t :=
    next_fixed_of_mapNext (f := fun u => u.setTimers s.dt s.st) (noInstructionReadsOrWritesTheTimers i s _ _) rfl h
  rw [← hfixed]
  exact ⟨rfl, rfl⟩

theorem stepEvent_timers (s : State) : s.stepEvent.1.dt = s.dt ∧ s.stepEvent.1.st = s.st := by
  cases h : step s with
  | next t =>
    obtain ⟨_, _, _, _, hexec⟩ := step_next h
    rw [stepEvent_of_next h]
    exact exec_next_timers (s := s.beginStep) hexec
  | fault f => rw [stepEvent_of_fault h]; exact ⟨rfl, rfl⟩
  | refused r => exact absurd h (noStepIsRefused s r)

theorem tick_of_timersZero {s : State} (hs : timersZero s) : s.tick = s := by
  obtain ⟨hdt, hst⟩ := hs
  rw [State.tick, timerDown, timerDown, if_pos hdt, if_pos hst]
  rfl

theorem applyEvent_keeps_timersZero (s : State) (e : Event) (hs : timersZero s) : timersZero (applyEvent s e).1 := by
  cases e with
  | reset => exact ⟨rfl, rfl⟩
  | step =>
    obtain ⟨hdt, hst⟩ := hs
    obtain ⟨hdt', hst'⟩ := stepEvent_timers s
    exact ⟨hdt'.trans hdt, hst'.trans hst⟩
  | tick =>
    change timersZero s.tick
    rwa [tick_of_timersZero hs]
  | hostWrite a b => exact hs
  | hostRead a => exact hs

/-- Settles O43: every event keeps both timers at zero. -/
theorem zeroTimersStayZero : Obligations.ZeroTimersStayZero := by
  intro es s hdt hst
  have hzero : timersZero (runEvents es s) := runEvents_keeps applyEvent_keeps_timersZero es ⟨hdt, hst⟩
  have hsame := tick_of_timersZero hzero
  obtain ⟨hdt, hst⟩ := hzero
  exact ⟨hdt, hst, hsame⟩

end Sys2Proof.Machine
end

section
/-! The pixels (rule R144): the column and row of each bit of the display. -/

namespace Sys2Proof.Machine

theorem pixelByte_eq_iff (c : Fin 64) (r : Fin 32) (k : Fin 256) :
    pixelByte c r = k ↔ r.val = k.val / 8 ∧ c.val / 8 = k.val % 8 := by
  simp only [Fin.ext_iff, pixelByte]
  omega

/-- The column, within a byte, of the pixel that is bit `b`: `pixelBit` is its own inverse, whichever end is leftmost. -/
def bitColumn (b : Nat) : Nat := if Config.pixelMsbLeft then 7 - b else b

theorem bitColumn_lt {b : Nat} (hb : b < 8) : bitColumn b < 8 := by
  unfold bitColumn
  split_ifs <;> omega

theorem pixelBit_eq_iff (c : Fin 64) {b : Nat} (hb : b < 8) : pixelBit c = b ↔ c.val % 8 = bitColumn b := by
  unfold pixelBit bitColumn
  split_ifs <;> omega

theorem pixelLit_eq (s : State) (c : Fin 64) (r : Fin 32) :
    s.pixelLit c r = (s.mem.read (0x0F00 + 8 * r.val + c.val / 8)).getLsbD (pixelBit c) := by
  have haddr : displayStart + (pixelByte c r).val = 0x0F00 + 8 * r.val + c.val / 8 :=
    (Nat.add_assoc displayStart (8 * r.val) (c.val / 8)).symm
  rw [State.pixelLit, State.displayByte, haddr]

/-- Settles O58: the byte fixes the row and the eighth of it, the bit fixes the column in that eighth. -/
theorem pixelsAreTheBitsOfTheDisplay : Obligations.PixelsAreTheBitsOfTheDisplay := by
  refine ⟨pixelLit_eq, fun k b hb => ?_⟩
  have hcolumn := bitColumn_lt hb
  refine ⟨⟨8 * (k.val % 8) + bitColumn b, by omega⟩, ⟨k.val / 8, by omega⟩, ?_, fun c r hbyte hbit => ?_⟩
  · rw [pixelByte_eq_iff, pixelBit_eq_iff _ hb]
    refine ⟨⟨rfl, ?_⟩, ?_⟩ <;> dsimp only <;> omega
  · obtain ⟨hrow, heighth⟩ := (pixelByte_eq_iff c r k).mp hbyte
    have hbit := (pixelBit_eq_iff c hb).mp hbit
    simp only [Fin.ext_iff]
    omega

end Sys2Proof.Machine
end

section
/-! The end of a run (rule R169), the loader's writes (rule R161), and the reset event (rule R160). -/

namespace Sys2Proof.Machine

/-- Inside memory `pc` is its own low twelve bits, so a host access can name its byte (R24, R40). -/
theorem toNat_setWidth_addr {p : Word} (hp : p.toNat ≤ 0x0FFE) : (p.setWidth 12).toNat = p.toNat := by
  rw [BitVec.toNat_setWidth]
  exact Nat.mod_eq_of_lt (by omega)

theorem toNat_setWidth_addr_add_one {p : Word} (hp : p.toNat ≤ 0x0FFE) :
    (p.setWidth 12 + 1).toNat = p.toNat + 1 := by
  have hself := toNat_setWidth_addr hp
  bv_omega

/-! The parked end. -/

/-- A step whose word at `pc` is given as a number. -/
theorem step_of_decodesTo_wordAt {s : State} {i : Instr} (hpc : s.pc.toNat ≤ 0x0FFE)
    (h : decodesTo (s.wordAt s.pc.toNat) i) : step s = exec i s.beginStep := by
  rw [decodesTo, ← wordAtPc_toNat, BitVec.ofNat_toNat, BitVec.setWidth_eq] at h
  exact step_of_decodeWord hpc h

/-- Settles O36: the word at `pc` is that of a JP to `pc`, and such a jump leaves the state it is given (R81). -/
theorem parkedStepChangesNothing : Obligations.ParkedStepChangesNothing := by
  intro s hparked
  refine ⟨?_, hparked⟩
  obtain ⟨hpc, hword⟩ := hparked
  have hself := toNat_setWidth_addr hpc
  obtain ⟨hdecodes, t, hexec, -, -, hstay, -⟩ := jpSetsThePcToItsOperand (s.pc.setWidth 12) s.beginStep
  rw [hself, ← hword] at hdecodes
  rw [step_of_decodesTo_wordAt hpc hdecodes, hexec, hstay hself]
  rfl

/-! A word placed at `pc`. -/

theorem withFetchWord_sixteen (s : State) (w : Word) : s.withFetchWord 16 w.toNat = placeWord s w := by
  have hword : tableWord 16 w.toNat = w := by
    rw [tableWord, Nat.mod_eq_of_lt w.isLt, BitVec.ofNat_toNat, BitVec.setWidth_eq]
  rw [State.withFetchWord, hword]

/-- Inside memory, placing a word is the two writes of the host, high byte first (R43, R161). -/
theorem runEvents_hostWrites_eq_placeWord {s : State} (hpc : s.pc.toNat ≤ 0x0FFE) (w : Word) :
    runEvents [.hostWrite (s.pc.setWidth 12) (hiByte w), .hostWrite (s.pc.setWidth 12 + 1) (loByte w)] s =
      placeWord s w := by
  have hroom : ¬ memSize ≤ s.pc.toNat + 1 := by rw [memSize]; omega
  rw [placeWord, if_neg hroom]
  simp only [runEvents, applyEvent, State.hostWrite, toNat_setWidth_addr hpc, toNat_setWidth_addr_add_one hpc]
  rfl

theorem step_of_fetch {s : State} {w : Word} {i : Instr} (hfetch : s.fetch = .ok w) (h : decodeWord w = .ok i) :
    step s = exec i s.beginStep := by
  simp only [step, hfetch, (decodeStep_ok_iff s w i).mpr h]

/-- Settles O56: the word that the two writes place is the word the step fetches. -/
theorem loadedWordRunsInTheNextStep : Obligations.LoadedWordRunsInTheNextStep := by
  intro s w i hpc hdecode
  rw [withFetchWord_sixteen, decodeTableWord_sixteen, hdecode]
  exact ⟨runEvents_hostWrites_eq_placeWord hpc w, rfl, step_of_fetch (fetch_placeWord s w hpc) hdecode⟩

/-! The reset event. -/

/-- Settles O53: what the event keeps are the model's own fields, so the seven of R10 are those after reset (O52). -/
theorem resetEventClearsEveryState : Obligations.ResetEventClearsEveryState :=
  fun _ => resetLeavesTheValuesOfTheSpec

end Sys2Proof.Machine
end
